-- ==== Sys2Proof/Word.lean ====
section
/-! DEFINITION. The widths of the block (spec/00_scope.md R5) and their plainest arithmetic. -/

namespace Sys2Proof

/-- One byte: a V register, a timer, a memory cell (00_scope.md R5). -/
abbrev Byte := BitVec 8

/-- Sixteen bits: I, PC, a stack entry, an instruction word (00_scope.md R5). -/
abbrev Word := BitVec 16

/-- The immediate address `nnn`, twelve bits (30_encoding.md R72). -/
abbrev Addr := BitVec 12

/-- The index of a general register, V0 to VF (10_state.md R20). -/
abbrev Reg := Fin 16

/-- VF, general register 15 and the flag output (10_state.md R21). -/
abbrev VF : Reg := 15

/-- V0, the implicit operand of `JP V0,addr` (40_flow.md R108). -/
abbrev V0 : Reg := 0

/-- The number of bytes of memory (00_scope.md R5). -/
abbrev memSize : Nat := 4096

/-- Where programs are loaded, and the reset entry point (00_scope.md R5). -/
abbrev progBase : Nat := 0x200

/-- The first byte of the fontset (00_scope.md R5). -/
abbrev fontBase : Nat := 0x050

/-- The largest program, 4096 - 0x200 bytes (00_scope.md R5). -/
abbrev maxRom : Nat := memSize - progBase

/-- `zext_16(nnn)`: the only extension there is (00_scope.md R8, 30_encoding.md R73). -/
abbrev zext16 (nnn : Addr) : Word := nnn.setWidth 16

end Sys2Proof
end

