-- ==== Sys2Proof/Syntax.lean ====
section
/-! DEFINITION. The 34 instructions, one constructor per row of spec/opcode_table.json, in the
table's order (30_encoding.md R76). -/

namespace Sys2Proof

/-- An instruction with its decoded fields: `x`, `y` register indexes, `kk` the immediate byte, `nnn`
the immediate address, `n` a row count (30_encoding.md R72, R73). -/
inductive Instr where
  /-- `CLS`, 00E0 (R140) -/
  | cls
  /-- `RET`, 00EE (R101) -/
  | ret
  /-- `JP addr`, 1nnn (R102) -/
  | jp (nnn : Addr)
  /-- `CALL addr`, 2nnn (R103) -/
  | call (nnn : Addr)
  /-- `SE Vx,byte`, 3xkk (R104) -/
  | seByte (x : Reg) (kk : Byte)
  /-- `SNE Vx,byte`, 4xkk (R105) -/
  | sneByte (x : Reg) (kk : Byte)
  /-- `SE Vx,Vy`, 5xy0 (R106) -/
  | seReg (x y : Reg)
  /-- `LD Vx,byte`, 6xkk (R110) -/
  | ldByte (x : Reg) (kk : Byte)
  /-- `ADD Vx,byte`, 7xkk (R111) -/
  | addByte (x : Reg) (kk : Byte)
  /-- `LD Vx,Vy`, 8xy0 (R112) -/
  | ldReg (x y : Reg)
  /-- `OR Vx,Vy`, 8xy1 (R113) -/
  | orReg (x y : Reg)
  /-- `AND Vx,Vy`, 8xy2 (R114) -/
  | andReg (x y : Reg)
  /-- `XOR Vx,Vy`, 8xy3 (R115) -/
  | xorReg (x y : Reg)
  /-- `ADD Vx,Vy`, 8xy4 (R116) -/
  | addReg (x y : Reg)
  /-- `SUB Vx,Vy`, 8xy5 (R117) -/
  | sub (x y : Reg)
  /-- `SHR Vx`, 8xy6; `y` is part of the word and is read only when SHIFT_SRC = VY (R118) -/
  | shr (x y : Reg)
  /-- `SUBN Vx,Vy`, 8xy7 (R119) -/
  | subn (x y : Reg)
  /-- `SHL Vx`, 8xyE; `y` as for `shr` (R120) -/
  | shl (x y : Reg)
  /-- `SNE Vx,Vy`, 9xy0 (R107) -/
  | sneReg (x y : Reg)
  /-- `LD I,addr`, Annn (R130) -/
  | ldI (nnn : Addr)
  /-- `JP V0,addr`, Bnnn (R108) -/
  | jpV0 (nnn : Addr)
  /-- `RND Vx,byte`, Cxkk (R121) -/
  | rnd (x : Reg) (kk : Byte)
  /-- `DRW Vx,Vy,n`, Dxyn (R141) -/
  | drw (x y : Reg) (n : Nat)
  /-- `SKP Vx`, Ex9E (R150) -/
  | skp (x : Reg)
  /-- `SKNP Vx`, ExA1 (R151) -/
  | sknp (x : Reg)
  /-- `LD Vx,DT`, Fx07 (R153) -/
  | ldVxDt (x : Reg)
  /-- `LD Vx,K`, Fx0A (R152) -/
  | ldVxK (x : Reg)
  /-- `LD DT,Vx`, Fx15 (R154) -/
  | ldDtVx (x : Reg)
  /-- `LD ST,Vx`, Fx18 (R155) -/
  | ldStVx (x : Reg)
  /-- `ADD I,Vx`, Fx1E (R131) -/
  | addIVx (x : Reg)
  /-- `LD F,Vx`, Fx29 (R132) -/
  | ldFVx (x : Reg)
  /-- `LD B,Vx`, Fx33 (R133) -/
  | ldBVx (x : Reg)
  /-- `LD [I],Vx`, Fx55 (R134) -/
  | ldMemVx (x : Reg)
  /-- `LD Vx,[I]`, Fx65 (R135) -/
  | ldVxMem (x : Reg)
  deriving DecidableEq, Repr

end Sys2Proof
end

