-- ==== Sys2Proof/WellFormed.lean ====
section
/-! DEFINITION. Which terms of `Instr` an instruction word can stand for. The width of every field
but one is its type; the row count of DRW is a number and is checked here. -/

namespace Sys2Proof

/-- The field values that 16 bits can hold (30_encoding.md R72): `n` is a row count 0 to 15 (R73);
a register index, `kk` and `nnn` fit by their types. -/
def WellFormed (i : Instr) : Bool :=
  match i with
  | .cls => true
  | .ret => true
  | .jp _ => true
  | .call _ => true
  | .seByte _ _ => true
  | .sneByte _ _ => true
  | .seReg _ _ => true
  | .ldByte _ _ => true
  | .addByte _ _ => true
  | .ldReg _ _ => true
  | .orReg _ _ => true
  | .andReg _ _ => true
  | .xorReg _ _ => true
  | .addReg _ _ => true
  | .sub _ _ => true
  | .shr _ _ => true
  | .subn _ _ => true
  | .shl _ _ => true
  | .sneReg _ _ => true
  | .ldI _ => true
  | .jpV0 _ => true
  | .rnd _ _ => true
  | .drw _ _ n => decide (n ≤ 15)
  | .skp _ => true
  | .sknp _ => true
  | .ldVxDt _ => true
  | .ldVxK _ => true
  | .ldDtVx _ => true
  | .ldStVx _ => true
  | .addIVx _ => true
  | .ldFVx _ => true
  | .ldBVx _ => true
  | .ldMemVx _ => true
  | .ldVxMem _ => true

end Sys2Proof
end

