-- ==== Sys2Proof/Decode.lean ====
section
/-! DEFINITION. The decoder, total on any bytes (spec/30_encoding.md R71 to R79), and after it the
encoder, written from the same formats (R74, R76). -/

namespace Sys2Proof

/-- Why bytes are no instruction. -/
inductive DecodeError where
  /-- the word matches no row of the opcode map (30_encoding.md R77) -/
  | unknownOpcode (w : Word)
  /-- fewer than the two bytes of an instruction (30_encoding.md R71) -/
  | truncated
  deriving DecidableEq, Repr

/-! ## Fields (30_encoding.md R72) -/

/-- `op[15:12]`, the instruction family. -/
def topField (w : Word) : BitVec 4 := w.extractLsb' 12 4

/-- `op[11:8]`, the index of Vx. -/
def xField (w : Word) : Reg := (w.extractLsb' 8 4).toFin

/-- `op[7:4]`, the index of Vy. -/
def yField (w : Word) : Reg := (w.extractLsb' 4 4).toFin

/-- `op[3:0]`, the low nibble. -/
def nField (w : Word) : BitVec 4 := w.extractLsb' 0 4

/-- `op[7:0]`, the low byte. -/
def kkField (w : Word) : Byte := w.extractLsb' 0 8

/-- `op[11:0]`, the low twelve bits. -/
def nnnField (w : Word) : Addr := w.extractLsb' 0 12

/-! ## Decoding (30_encoding.md R75, R76)

The top nibble selects the family; families 0x0, 0x5, 0x8, 0x9, 0xE and 0xF have fixed low bits too.
The patterns are exact (90_conflicts.md C2). -/

/-- Family 0x0: the whole word is fixed. -/
def decodeFamily0 (w : Word) : Except DecodeError Instr :=
  if w = 0x00E0 then .ok .cls
  else if w = 0x00EE then .ok .ret
  else .error (.unknownOpcode w)

/-- Family 0x5: the low nibble is 0. -/
def decodeFamily5 (w : Word) : Except DecodeError Instr :=
  if nField w = 0x0 then .ok (.seReg (xField w) (yField w))
  else .error (.unknownOpcode w)

/-- Family 0x8: the low nibble selects the operation. -/
def decodeFamily8 (w : Word) : Except DecodeError Instr :=
  let x := xField w
  let y := yField w
  let n := nField w
  if n = 0x0 then .ok (.ldReg x y)
  else if n = 0x1 then .ok (.orReg x y)
  else if n = 0x2 then .ok (.andReg x y)
  else if n = 0x3 then .ok (.xorReg x y)
  else if n = 0x4 then .ok (.addReg x y)
  else if n = 0x5 then .ok (.sub x y)
  else if n = 0x6 then .ok (.shr x y)
  else if n = 0x7 then .ok (.subn x y)
  else if n = 0xE then .ok (.shl x y)
  else .error (.unknownOpcode w)

/-- Family 0x9: the low nibble is 0. -/
def decodeFamily9 (w : Word) : Except DecodeError Instr :=
  if nField w = 0x0 then .ok (.sneReg (xField w) (yField w))
  else .error (.unknownOpcode w)

/-- Family 0xE: the low byte selects the key skip. -/
def decodeFamilyE (w : Word) : Except DecodeError Instr :=
  let x := xField w
  let kk := kkField w
  if kk = 0x9E then .ok (.skp x)
  else if kk = 0xA1 then .ok (.sknp x)
  else .error (.unknownOpcode w)

/-- Family 0xF: the low byte selects the operation. -/
def decodeFamilyF (w : Word) : Except DecodeError Instr :=
  let x := xField w
  let kk := kkField w
  if kk = 0x07 then .ok (.ldVxDt x)
  else if kk = 0x0A then .ok (.ldVxK x)
  else if kk = 0x15 then .ok (.ldDtVx x)
  else if kk = 0x18 then .ok (.ldStVx x)
  else if kk = 0x1E then .ok (.addIVx x)
  else if kk = 0x29 then .ok (.ldFVx x)
  else if kk = 0x33 then .ok (.ldBVx x)
  else if kk = 0x55 then .ok (.ldMemVx x)
  else if kk = 0x65 then .ok (.ldVxMem x)
  else .error (.unknownOpcode w)

/-- The instruction a 16-bit word stands for, or its rejection by name: a pure function of the word
(30_encoding.md R75, R79). -/
def decode (w : Word) : Except DecodeError Instr :=
  match (topField w).toNat with
  | 0x0 => decodeFamily0 w
  | 0x1 => .ok (.jp (nnnField w))
  | 0x2 => .ok (.call (nnnField w))
  | 0x3 => .ok (.seByte (xField w) (kkField w))
  | 0x4 => .ok (.sneByte (xField w) (kkField w))
  | 0x5 => decodeFamily5 w
  | 0x6 => .ok (.ldByte (xField w) (kkField w))
  | 0x7 => .ok (.addByte (xField w) (kkField w))
  | 0x8 => decodeFamily8 w
  | 0x9 => decodeFamily9 w
  | 0xA => .ok (.ldI (nnnField w))
  | 0xB => .ok (.jpV0 (nnnField w))
  | 0xC => .ok (.rnd (xField w) (kkField w))
  | 0xD => .ok (.drw (xField w) (yField w) (nField w).toNat)
  | 0xE => decodeFamilyE w
  | 0xF => decodeFamilyF w
  | _ => .error (.unknownOpcode w)

/-- Two bytes as they lie in memory make a word, the first byte the high one (20_memory.md R53). -/
def wordOfBytes (hi lo : Byte) : Word := hi ++ lo

/-- The high byte of a word, stored at the lower address. -/
def highByte (w : Word) : Byte := w.extractLsb' 8 8

/-- The low byte of a word, stored at the higher address. -/
def lowByte (w : Word) : Byte := w.extractLsb' 0 8

/-- Decode from a stream of bytes: the instruction and the bytes after it (30_encoding.md R71). -/
def decodeBytes (bytes : List Byte) : Except DecodeError (Instr × List Byte) :=
  match bytes with
  | hi :: lo :: rest =>
    match decode (wordOfBytes hi lo) with
    | .ok i => .ok (i, rest)
    | .error e => .error e
  | [_] => .error .truncated
  | [] => .error .truncated

/-! ## Encoding (30_encoding.md R74, R76) -/

/-- Format NNN: top, nnn. -/
def formatNNN (top : BitVec 4) (nnn : Addr) : Word := top ++ nnn

/-- Format XKK: top, x, kk. -/
def formatXKK (top : BitVec 4) (x : Reg) (kk : Byte) : Word := top ++ BitVec.ofFin (w := 4) x ++ kk

/-- Formats XY and XYN: top, x, y and the low nibble. -/
def formatXYN (top : BitVec 4) (x y : Reg) (n : BitVec 4) : Word :=
  top ++ BitVec.ofFin (w := 4) x ++ BitVec.ofFin (w := 4) y ++ n

/-- Format X: top, x, an 8-bit sub-opcode. -/
def formatX (top : BitVec 4) (x : Reg) (sub : Byte) : Word := top ++ BitVec.ofFin (w := 4) x ++ sub

/-- The word of an instruction. Of an ill-formed DRW the row count loses its high bits. -/
def encode (i : Instr) : Word :=
  match i with
  | .cls => 0x00E0
  | .ret => 0x00EE
  | .jp nnn => formatNNN 0x1 nnn
  | .call nnn => formatNNN 0x2 nnn
  | .seByte x kk => formatXKK 0x3 x kk
  | .sneByte x kk => formatXKK 0x4 x kk
  | .seReg x y => formatXYN 0x5 x y 0x0
  | .ldByte x kk => formatXKK 0x6 x kk
  | .addByte x kk => formatXKK 0x7 x kk
  | .ldReg x y => formatXYN 0x8 x y 0x0
  | .orReg x y => formatXYN 0x8 x y 0x1
  | .andReg x y => formatXYN 0x8 x y 0x2
  | .xorReg x y => formatXYN 0x8 x y 0x3
  | .addReg x y => formatXYN 0x8 x y 0x4
  | .sub x y => formatXYN 0x8 x y 0x5
  | .shr x y => formatXYN 0x8 x y 0x6
  | .subn x y => formatXYN 0x8 x y 0x7
  | .shl x y => formatXYN 0x8 x y 0xE
  | .sneReg x y => formatXYN 0x9 x y 0x0
  | .ldI nnn => formatNNN 0xA nnn
  | .jpV0 nnn => formatNNN 0xB nnn
  | .rnd x kk => formatXKK 0xC x kk
  | .drw x y n => formatXYN 0xD x y (BitVec.ofNat 4 n)
  | .skp x => formatX 0xE x 0x9E
  | .sknp x => formatX 0xE x 0xA1
  | .ldVxDt x => formatX 0xF x 0x07
  | .ldVxK x => formatX 0xF x 0x0A
  | .ldDtVx x => formatX 0xF x 0x15
  | .ldStVx x => formatX 0xF x 0x18
  | .addIVx x => formatX 0xF x 0x1E
  | .ldFVx x => formatX 0xF x 0x29
  | .ldBVx x => formatX 0xF x 0x33
  | .ldMemVx x => formatX 0xF x 0x55
  | .ldVxMem x => formatX 0xF x 0x65

/-- The two bytes of an instruction as they lie in memory (30_encoding.md R71). -/
def encodeBytes (i : Instr) : List Byte := [highByte (encode i), lowByte (encode i)]

/-! ## The rows of the opcode map -/

/-- The match and the mask of an instruction's row of the opcode map (30_encoding.md R76): `w` is a word
of that row when `w AND mask = match` (R75). -/
def opcodeRow (i : Instr) : Word × Word :=
  match i with
  | .cls => (0x00E0, 0xFFFF)
  | .ret => (0x00EE, 0xFFFF)
  | .jp _ => (0x1000, 0xF000)
  | .call _ => (0x2000, 0xF000)
  | .seByte _ _ => (0x3000, 0xF000)
  | .sneByte _ _ => (0x4000, 0xF000)
  | .seReg _ _ => (0x5000, 0xF00F)
  | .ldByte _ _ => (0x6000, 0xF000)
  | .addByte _ _ => (0x7000, 0xF000)
  | .ldReg _ _ => (0x8000, 0xF00F)
  | .orReg _ _ => (0x8001, 0xF00F)
  | .andReg _ _ => (0x8002, 0xF00F)
  | .xorReg _ _ => (0x8003, 0xF00F)
  | .addReg _ _ => (0x8004, 0xF00F)
  | .sub _ _ => (0x8005, 0xF00F)
  | .shr _ _ => (0x8006, 0xF00F)
  | .subn _ _ => (0x8007, 0xF00F)
  | .shl _ _ => (0x800E, 0xF00F)
  | .sneReg _ _ => (0x9000, 0xF00F)
  | .ldI _ => (0xA000, 0xF000)
  | .jpV0 _ => (0xB000, 0xF000)
  | .rnd _ _ => (0xC000, 0xF000)
  | .drw _ _ _ => (0xD000, 0xF000)
  | .skp _ => (0xE09E, 0xF0FF)
  | .sknp _ => (0xE0A1, 0xF0FF)
  | .ldVxDt _ => (0xF007, 0xF0FF)
  | .ldVxK _ => (0xF00A, 0xF0FF)
  | .ldDtVx _ => (0xF015, 0xF0FF)
  | .ldStVx _ => (0xF018, 0xF0FF)
  | .addIVx _ => (0xF01E, 0xF0FF)
  | .ldFVx _ => (0xF029, 0xF0FF)
  | .ldBVx _ => (0xF033, 0xF0FF)
  | .ldMemVx _ => (0xF055, 0xF0FF)
  | .ldVxMem _ => (0xF065, 0xF0FF)

/-! ## The opcode table's numbering -/

/-- The word that the table's bits `w` are: bit 0 is the least significant, bits from `nbits` on are 0. -/
def tableWord (nbits w : Nat) : Word := BitVec.ofNat 16 (w % 2 ^ nbits)

/-- What the decoder reads from an instruction whose bits are `w`, laid out as it lies in memory. -/
def decodeTableWord (nbits w : Nat) : Option Instr :=
  match decodeBytes [highByte (tableWord nbits w), lowByte (tableWord nbits w)] with
  | .ok (i, _) => some i
  | .error _ => none

end Sys2Proof
end

