-- ==== Sys2Proof/Config.lean ====
section
/-! DEFINITION. The parameters that the spec leaves to the implementation (spec/00_scope.md R6,
92_eei_decisions.md D2, D10, D11, D14, D15), and the events of 00_scope.md R9, of which the host's plan
speaks. -/

namespace Sys2Proof

/-- SHIFT_SRC: the source operand of SHR and SHL (92_eei_decisions.md D10). -/
inductive ShiftSrc where
  /-- the source is Vx, the default -/
  | vx
  /-- the source is Vy -/
  | vy
  deriving DecidableEq, Repr

/-- ADD_I_MODE: wrap and flag behaviour of `ADD I,Vx` (92_eei_decisions.md D11). -/
inductive AddIMode where
  /-- modulo 65536, no flag: the default -/
  | w16
  /-- modulo 4096, no flag -/
  | w12
  /-- modulo 65536, and VF tells a sum above 0xFFF -/
  | w16Vf
  deriving DecidableEq, Repr

/-- The configuration record of 00_scope.md R6. DESIGN CHOICE, log 4: it is a field of State, so a
statement about every state is a statement about every value of the parameters. -/
structure Config where
  /-- SHIFT_SRC -/
  shiftSrc : ShiftSrc
  /-- ADD_I_MODE -/
  addIMode : AddIMode
  /-- FONT: byte `5*d + r` is row `r` of the glyph of digit `d` (10_state.md R30) -/
  font : Vector Byte 80
  deriving DecidableEq, Repr

/-- The default of FONT, the table of 10_state.md R30. PRESUMED, unsafe, log 5: the spec takes these
bytes from general knowledge; only `State.reset` uses them. -/
def Config.defaultFont : Vector Byte 80 := #v[
  0xF0, 0x90, 0x90, 0x90, 0xF0,
  0x20, 0x60, 0x20, 0x20, 0x70,
  0xF0, 0x10, 0xF0, 0x80, 0xF0,
  0xF0, 0x10, 0xF0, 0x10, 0xF0,
  0x90, 0x90, 0xF0, 0x10, 0x10,
  0xF0, 0x80, 0xF0, 0x10, 0xF0,
  0xF0, 0x80, 0xF0, 0x90, 0xF0,
  0xF0, 0x10, 0x20, 0x40, 0x40,
  0xF0, 0x90, 0xF0, 0x90, 0xF0,
  0xF0, 0x90, 0xF0, 0x10, 0xF0,
  0xF0, 0x90, 0xF0, 0x90, 0x90,
  0xE0, 0x90, 0xE0, 0x90, 0xE0,
  0xF0, 0x80, 0x80, 0x80, 0xF0,
  0xE0, 0x90, 0x90, 0x90, 0xE0,
  0xF0, 0x80, 0xF0, 0x80, 0xF0,
  0xF0, 0x80, 0xF0, 0x80, 0x80]

/-- Every parameter at its default (00_scope.md R6). -/
def Config.default : Config where
  shiftSrc := .vx
  addIMode := .w16
  font := Config.defaultFont

/-- RNG: the byte that the `k`-th executed RND draws (00_scope.md R6, 41_alu.md R121). A free value:
it has no body, so a statement holds for every sequence of draws. DESIGN CHOICE, safe, log 6. -/
opaque Config.draw (k : Nat) : Byte

/-! ## Events and the host's plan -/

/-- The events of 00_scope.md R9: all that can change the state. -/
inductive Machine.Event where
  /-- `Reset` (70_reset_and_hazards.md R190) -/
  | reset
  /-- `LoadProgram(bytes)` (70_reset_and_hazards.md R191) -/
  | loadProgram (bytes : List Byte)
  /-- `Step`, one instruction cycle (30_encoding.md R70) -/
  | step
  /-- `Tick`, one 60 Hz timer tick (60_exceptions.md R170) -/
  | tick
  /-- `SetKeys(k)`, bit `j` of `k` the new state of key `j` (60_exceptions.md R172) -/
  | setKeys (k : BitVec 16)
  deriving DecidableEq, Repr

/-- What the host does between two of its unlisted Steps (00_scope.md R6, TICK_SCHEDULE;
60_exceptions.md R171, R172, R174). DESIGN CHOICE, log 7. -/
inductive HostPlan where
  /-- nothing: Steps only -/
  | quiet
  /-- any number of Ticks: TICK_SCHEDULE at its default, unconstrained -/
  | ticking
  /-- any events at all -/
  | free
  deriving DecidableEq, Repr

/-- TICK_SCHEDULE: how many Ticks fall after the `k`-th unlisted Step (60_exceptions.md R171). A free
value: it has no body, so a statement holds for every placement, those with endless Ticks among them.
DESIGN CHOICE, safe, log 7. -/
opaque Config.ticksAfter (k : Nat) : Nat

/-- The host's events after the `k`-th unlisted Step, whatever they are (60_exceptions.md R174). A free
value like `Config.ticksAfter`. DESIGN CHOICE, safe, log 7. -/
opaque Config.hostEvents (k : Nat) : List Machine.Event

end Sys2Proof
end

