-- ==== Sys2Proof/Machine/State.lean ====
section
/-! DEFINITION. The state of the block (spec/10_state.md R20 to R37), its faults (60_exceptions.md
R160) and the state after reset (10_state.md R35). -/

namespace Sys2Proof.Machine

/-- The six faults of 60_exceptions.md R160. A fault is an effect that the spec describes (R167): the
machine goes on to a next state with HALT = 1 and the fault recorded in ERR, so these names stand in
`ErrRecord.code`, and no step answers with the outcome `fault` (log 1; safe: the halted state is there to
be seen). -/
inductive Fault where
  /-- code 1, raised by every Step's fetch when pc0 + 1 > 0xFFF (R161); safe -/
  | outOfBoundsFetch
  /-- code 2, raised by every Step's decode when the word matches no row (R162); safe -/
  | unknownOpcode
  /-- code 3, raised by CALL when SP = 16 (R163); safe -/
  | stackOverflow
  /-- code 4, raised by RET when SP = 0 (R164); safe -/
  | stackUnderflow
  /-- code 5, raised by the event LoadProgram on more than 3584 bytes (R165); safe -/
  | romTooLarge
  /-- code 6, raised by DRW, LD B,Vx, LD [I],Vx and LD Vx,[I] beyond 0xFFF (R166); safe: the chip might
  wrap where the block halts (92_eei_decisions.md D6) -/
  | outOfBoundsAccess
  deriving DecidableEq, Repr

/-- Why a step has no meaning. -/
inductive Refusal where
  /-- an instruction that the model gives no meaning: raised by no arm of `exec` as it stands; safe -/
  | notModelled (mnemonic : String)
  deriving DecidableEq, Repr

/-- The fault record ERR (10_state.md R32). -/
structure ErrRecord where
  /-- ERR.code; `none` is code 0, no fault (log 12) -/
  code : Option Fault
  /-- ERR.opcode: the word of the faulting cycle, 0 where none was fetched -/
  opcode : Word
  /-- ERR.pc: pc0 of the faulting cycle -/
  pc : Word
  deriving DecidableEq, Repr

/-- No fault recorded: (0, 0, 0). -/
def ErrRecord.noFault : ErrRecord where
  code := Option.none
  opcode := 0
  pc := 0

/-- Memory: the cells that differ from the reset contents, addresses strictly rising
(`Memory.wf` of Machine/Ops.lean; log 8). -/
abbrev Memory := List Host.Cell

/-- The framebuffer FB: 32 rows of 64 pixels; bit `x` of row `y` is the pixel of column `x`
(10_state.md R28; log 15). -/
abbrev Framebuffer := Vector (BitVec 64) 32

/-- The whole state: the elements of 10_state.md R20 to R32, and five fields of the model's own that
hold the parameters of 00_scope.md R6. -/
structure State where
  /-- V[0] to V[15] (R20); V[15] is VF (R21) -/
  v : Vector Byte 16
  /-- I (R22) -/
  i : Word
  /-- PC (R23) -/
  pc : Word
  /-- SP, 0 to 16 (R24; log 11) -/
  sp : Fin 17
  /-- STACK[0] to STACK[15] (R24) -/
  stack : Vector Word 16
  /-- DT (R25) -/
  dt : Byte
  /-- ST (R26) -/
  st : Byte
  /-- KEY, bit `j` is key `j`, 1 = pressed (R27) -/
  key : BitVec 16
  /-- FB (R28) -/
  fb : Framebuffer
  /-- MEM (R29) -/
  mem : Memory
  /-- WAIT (R31) -/
  wait : Bool
  /-- WREG (R31) -/
  wreg : Reg
  /-- HALT (R32) -/
  halt : Bool
  /-- ERR (R32) -/
  err : ErrRecord
  /-- the parameters SHIFT_SRC, ADD_I_MODE and FONT; no event changes them (log 4) -/
  cfg : Config
  /-- how many RND bytes have been drawn: the model's own counter for the parameter RNG (log 6) -/
  draws : Nat
  /-- the host's listed events, oldest first, part of the event sequence of 60_exceptions.md R174: the
  model's own field (log 7) -/
  schedule : List Event
  /-- what the host does where nothing is listed, the parameter TICK_SCHEDULE and the host's other events;
  no event changes it: the model's own field (log 7) -/
  host : HostPlan
  /-- how many unlisted Steps the host has issued: the model's own counter for its free values (log 7) -/
  turns : Nat
  deriving DecidableEq, Repr

/-- The state after `Reset` (10_state.md R35), with every parameter at its default (00_scope.md R6). -/
def State.reset : State where
  v := Vector.replicate 16 0
  i := 0
  pc := 0x200
  sp := 0
  stack := Vector.replicate 16 0
  dt := 0
  st := 0
  key := 0
  fb := Vector.replicate 32 0
  mem := []
  wait := false
  wreg := 0
  halt := false
  err := ErrRecord.noFault
  cfg := Config.default
  draws := 0
  schedule := []
  host := HostPlan.ticking
  turns := 0

/-- What every meaning answers. -/
abbrev Result := Host.Outcome State Fault Refusal

end Sys2Proof.Machine
end

