-- ==== Sys2Proof/Machine/Ops.lean ====
section
/-! DEFINITION. The named operations over registers, stack, memory and framebuffer, the instruction
fetch, and `raise`, the block's one way of taking a fault (spec/20_memory.md, 60_exceptions.md R167). -/

namespace Sys2Proof.Machine

/-! ## Registers (10_state.md R20 to R26) -/

/-- `V[x]` (00_scope.md R8). -/
def State.reg (s : State) (x : Reg) : Byte := s.v[x.val]

/-- `V[x] <- b` (00_scope.md R8). -/
def State.setReg (s : State) (x : Reg) (b : Byte) : State :=
  { s with v := s.v.set x.val b }

/-- A flag as the value VF takes, 0 or 1 (10_state.md R21). -/
def flagByte (flag : Bool) : Byte := if flag then 1 else 0

/-- Write VF as a flag output (10_state.md R21). -/
def State.setFlag (s : State) (flag : Bool) : State := s.setReg VF (flagByte flag)

/-- Write a result to `V[x]`, then the flag to VF, last (41_alu.md R122). -/
def State.setRegFlag (s : State) (x : Reg) (result : Byte) (flag : Bool) : State :=
  (s.setReg x result).setFlag flag

/-- `I <- w`. -/
def State.setIndex (s : State) (w : Word) : State := { s with i := w }

/-- `DT <- b`. -/
def State.setDelay (s : State) (b : Byte) : State := { s with dt := b }

/-- `ST <- b`. -/
def State.setSound (s : State) (b : Byte) : State := { s with st := b }

/-- `FB <- fb`. -/
def State.setFrame (s : State) (fb : Framebuffer) : State := { s with fb := fb }

/-! ## The program counter (30_encoding.md R70) -/

/-- `PC <- target`. -/
def State.jump (s : State) (target : Word) : State := { s with pc := target }

/-- Step 2 of the cycle: `PC <- pc0 + 2`. -/
def State.advance (s : State) : State := s.jump (s.pc + 2)

/-- A taken skip: `PC <- PC + 2`, so that it lands at pc0 + 4 (40_flow.md R100). -/
def State.skip (s : State) : State := s.jump (s.pc + 2)

/-- Skip exactly when the test holds (40_flow.md R100). -/
def State.skipIf (s : State) (test : Bool) : State := if test then s.skip else s

/-- `pc0` seen from an executing instruction, for which PC is already pc0 + 2 (log 2). -/
def State.instrAddr (s : State) : Word := s.pc - 2

/-- Suspend the block in `LD Vx,K`: the advance is taken back, WREG <- x, WAIT <- 1
(44_keypad_timers.md R152, 10_state.md R31). -/
def State.suspend (s : State) (x : Reg) : State :=
  { s with pc := s.instrAddr, wreg := x, wait := true }

/-- One random byte has been drawn (41_alu.md R121; log 6). -/
def State.countDraw (s : State) : State := { s with draws := s.draws + 1 }

/-! ## Taking a fault (60_exceptions.md R167) -/

/-- The halted state of a fault: `s`, the state when the Step began but perhaps for the PC advance, with
PC = pc0 again, HALT = 1 and ERR = (code, word, pc0). -/
def State.halted (s : State) (f : Fault) (op pc0 : Word) : State :=
  { s with pc := pc0, halt := true, err := { code := some f, opcode := op, pc := pc0 } }

/-- `raise F(info)`: nothing but HALT, ERR and the taking back of the PC advance. There is no return from
a fault: only `Reset` clears HALT (60_exceptions.md R181). -/
def raise (f : Fault) (op pc0 : Word) (s : State) : Result := .next (s.halted f op pc0)

/-! ## The stack (10_state.md R24) -/

/-- `STACK[SP] <- w; SP <- SP + 1`, or nothing where SP = 16. -/
def State.push (s : State) (w : Word) : Option State :=
  if h : s.sp.val < 16 then
    some { s with stack := s.stack.set s.sp.val w, sp := ⟨s.sp.val + 1, by omega⟩ }
  else none

/-- `SP <- SP - 1`, and the entry then at SP, or nothing where SP = 0. The entry keeps its value. -/
def State.pop (s : State) : Option (Word × State) :=
  if h : s.sp.val = 0 then none
  else
    have hlt : s.sp.val - 1 < 16 := by omega
    some (s.stack[s.sp.val - 1], { s with sp := ⟨s.sp.val - 1, by omega⟩ })

/-! ## Memory (20_memory.md)

The block's addresses are numbers, never reduced (R50). Every access goes through `readBlock`,
`writeBlock` or `fetchWord`, each of which checks its whole range before it touches a byte (R52, R57). -/

/-- The reset contents, which an unlisted address reads as: FONT at 0x050 to 0x09F and 0 elsewhere
(10_state.md R30, R35; log 8). -/
def resetByte (font : Vector Byte 80) (a : Nat) : Byte :=
  if h : fontBase ≤ a ∧ a < fontBase + 80 then font[a - fontBase] else 0

/-- Every cell from address `lo` on, addresses strictly rising and inside the space, none equal to what
its address reads as unlisted. -/
def Memory.wfFrom (font : Vector Byte 80) (lo : Nat) : Memory → Bool
  | [] => true
  | (a, b) :: rest =>
    decide (lo ≤ a) && decide (a < memSize) && decide (b ≠ resetByte font a)
      && Memory.wfFrom font (a + 1) rest

/-- The canonical form of memory: equal memories are equal lists. -/
def Memory.wf (font : Vector Byte 80) (m : Memory) : Bool := Memory.wfFrom font 0 m

/-- `MEM[a]` (20_memory.md R52). -/
def Memory.read (font : Vector Byte 80) (m : Memory) (a : Nat) : Byte :=
  match m with
  | [] => resetByte font a
  | (a', b) :: rest => if a' = a then b else Memory.read font rest a

/-- `MEM[a] <- b` (20_memory.md R52), keeping the canonical form. -/
def Memory.write (font : Vector Byte 80) (m : Memory) (a : Nat) (b : Byte) : Memory :=
  match m with
  | [] => if b = resetByte font a then [] else [(a, b)]
  | (a', b') :: rest =>
    if a' < a then (a', b') :: Memory.write font rest a b
    else if a' = a then (if b = resetByte font a then rest else (a, b) :: rest)
    else if b = resetByte font a then (a', b') :: rest
    else (a, b) :: (a', b') :: rest

/-- Write a list of bytes at `a`, `a + 1`, … in that order. -/
def Memory.writeAll (font : Vector Byte 80) (m : Memory) (a : Nat) (bytes : List Byte) : Memory :=
  match bytes with
  | [] => m
  | b :: rest => Memory.writeAll font (Memory.write font m a b) (a + 1) rest

/-- `MemRead(a, 1)` for an address known to be in range (20_memory.md R52). -/
def State.readByte (s : State) (a : Nat) : Byte := Memory.read s.cfg.font s.mem a

/-- Whether the `len` bytes from `base` lie in 0x000 to 0xFFF; no bytes always do (20_memory.md R57). -/
def inRange (base len : Nat) : Bool := decide (len = 0) || decide (base + len ≤ memSize)

/-- The `len` bytes from `base`. -/
def State.bytesFrom (s : State) (base len : Nat) : List Byte :=
  (List.range len).map fun k => s.readByte (base + k)

/-- Read `len` bytes from `base`, or nothing at all where one lies above 0xFFF (20_memory.md R57). -/
def State.readBlock (s : State) (base len : Nat) : Option (List Byte) :=
  if inRange base len then some (s.bytesFrom base len) else none

/-- Store bytes from `base` on, or nothing at all where one lies above 0xFFF (20_memory.md R57). -/
def State.writeBlock (s : State) (base : Nat) (bytes : List Byte) : Option State :=
  if inRange base bytes.length then
    some { s with mem := Memory.writeAll s.cfg.font s.mem base bytes }
  else none

/-! ## Instruction fetch (30_encoding.md R70 step 1, 20_memory.md R53, R55) -/

/-- The word at PC, high byte first, with no alignment check; nothing where PC + 1 > 0xFFF. -/
def State.fetchWord (s : State) : Option Word :=
  if s.pc.toNat + 1 ≤ 0xFFF then
    some (wordOfBytes (s.readByte s.pc.toNat) (s.readByte (s.pc.toNat + 1)))
  else none

/-! ## Pixels (10_state.md R28) -/

/-- `FB[y][x]`; a pixel outside the grid is off, and none is ever asked for. -/
def Framebuffer.pixel (fb : Framebuffer) (x y : Nat) : Bool :=
  if h : y < 32 then fb[y].getLsbD x else false

/-- `FB[y][x] <- on`. -/
def Framebuffer.setPixel (fb : Framebuffer) (x y : Nat) (on : Bool) : Framebuffer :=
  if h : y < 32 then
    fb.set y (if on then fb[y] ||| BitVec.twoPow 64 x else fb[y] &&& ~~~ BitVec.twoPow 64 x)
  else fb

/-- Every pixel off. -/
def Framebuffer.clear : Framebuffer := Vector.replicate 32 0

end Sys2Proof.Machine
end

