-- ==== Sys2Proof/Machine/Flags.lean ====
section
/-! DEFINITION. Every flag computation of the instruction set; the flag is the value VF takes
(spec/10_state.md R21, 41_alu.md R123). -/

namespace Sys2Proof.Machine

/-- The carry out of bit 7: the widened sum exceeds 255 (41_alu.md R116). -/
def carryOut (a b : Byte) : Bool := decide (a.toNat + b.toNat > 255)

/-- No borrow of `a - b`: `a >= b` (41_alu.md R117, R119). -/
def noBorrow (a b : Byte) : Bool := decide (a.toNat ≥ b.toNat)

/-- The bit that a shift right by one shifts out, bit 0 (41_alu.md R118). -/
def shiftedOutRight (b : Byte) : Bool := decide (b &&& 1 = 1)

/-- The bit that a shift left by one shifts out, bit 7 (41_alu.md R120). -/
def shiftedOutLeft (b : Byte) : Bool := decide ((b &&& 0x80) >>> 7 = 1)

/-- The unreduced sum I + Vx exceeds 0xFFF: the flag of ADD_I_MODE = W16_VF (42_index_memory.md R131;
log 16). -/
def indexOverflow (i : Word) (b : Byte) : Bool := decide (i.toNat + b.toNat > 0xFFF)

end Sys2Proof.Machine
end

