-- ==== Sys2Proof/Machine/Operands.lean ====
section
/-! DEFINITION. The operand forms and the values computed from them (spec/30_encoding.md R73):
register direct, immediate, the shift source, the key and glyph selected by a register, memory
indirect through I. All arithmetic is on numbers and is narrowed where the spec says `mod`. -/

namespace Sys2Proof.Machine

/-- `(a + b) mod 256` (41_alu.md R111, R116). -/
def addMod (a b : Byte) : Byte := BitVec.ofNat 8 ((a.toNat + b.toNat) % 256)

/-- `(a - b) mod 256`: `a - b` where `a >= b`, else `a - b + 256` (41_alu.md R117, R123). -/
def subMod (a b : Byte) : Byte :=
  if a.toNat ≥ b.toNat then BitVec.ofNat 8 (a.toNat - b.toNat)
  else BitVec.ofNat 8 (a.toNat + 256 - b.toNat)

/-- `s >> 1`; bit 7 of the result is 0 (41_alu.md R118). -/
def shiftRightOne (b : Byte) : Byte := b >>> 1

/-- `(s << 1) mod 256`; bit 0 of the result is 0 (41_alu.md R120). -/
def shiftLeftOne (b : Byte) : Byte := b <<< 1

/-- The source operand of SHR and SHL: `V[x]` if SHIFT_SRC = VX, else `V[y]` (41_alu.md R118, R120). -/
def shiftSource (s : State) (x y : Reg) : Byte :=
  match s.cfg.shiftSrc with
  | .vx => s.reg x
  | .vy => s.reg y

/-- Whether the key `Vx AND 0xF` is pressed: `isPressed` (44_keypad_timers.md R150, 60_exceptions.md
R177). -/
def keyPressed (s : State) (b : Byte) : Bool := s.key.getLsbD (b &&& 0xF).toNat

/-- The target of `JP V0,addr`: nnn + V0, not reduced to 12 bits (40_flow.md R108). -/
def indexedTarget (nnn : Addr) (b : Byte) : Word := zext16 nnn + b.setWidth 16

/-- The address of the glyph of digit `b`, unmasked (42_index_memory.md R132). -/
def glyphAddr (b : Byte) : Word := BitVec.ofNat 16 (fontBase + 5 * b.toNat)

/-- The new I of `ADD I,Vx` under ADD_I_MODE (42_index_memory.md R131). -/
def indexSum (mode : AddIMode) (i : Word) (b : Byte) : Word :=
  match mode with
  | .w16 => BitVec.ofNat 16 ((i.toNat + b.toNat) % 65536)
  | .w12 => BitVec.ofNat 16 ((i.toNat + b.toNat) % 4096)
  | .w16Vf => BitVec.ofNat 16 ((i.toNat + b.toNat) % 65536)

/-- Hundreds, tens and ones of a byte (42_index_memory.md R133). -/
def bcdDigits (b : Byte) : List Byte :=
  [BitVec.ofNat 8 (b.toNat / 100), BitVec.ofNat 8 (b.toNat / 10 % 10), BitVec.ofNat 8 (b.toNat % 10)]

/-- `V[0]` to `V[x]`, in that order (42_index_memory.md R134). -/
def regsUpTo (s : State) (x : Reg) : List Byte := s.v.toList.take (x.val + 1)

/-- `V[k] <- bytes[k - lo]` for k from `lo` on (42_index_memory.md R135). -/
def loadRegs (s : State) (lo : Nat) (bytes : List Byte) : State :=
  match bytes with
  | [] => s
  | b :: rest => loadRegs (if h : lo < 16 then s.setReg ⟨lo, h⟩ b else s) (lo + 1) rest

/-- The column of a sprite's origin, `V[x] mod 64` (43_display.md R142). -/
def originColumn (b : Byte) : Nat := b.toNat % 64

/-- The row of a sprite's origin, `V[y] mod 32` (43_display.md R142). -/
def originRow (b : Byte) : Nat := b.toNat % 32

end Sys2Proof.Machine
end

