-- ==== Sys2Proof/Machine/Alu.lean ====
section
/-! DEFINITION. Register load, arithmetic, logic, shift and random (spec/41_alu.md). Operands are read
first, Vx is written, VF is written last (R122). -/

namespace Sys2Proof.Machine

/-- `LD Vx,byte` (R110). -/
def execLdByte (x : Reg) (kk : Byte) (s : State) : Result := .next (s.setReg x kk)

/-- `ADD Vx,byte` (R111): wrapping, no flag. -/
def execAddByte (x : Reg) (kk : Byte) (s : State) : Result :=
  .next (s.setReg x (addMod (s.reg x) kk))

/-- `LD Vx,Vy` (R112). -/
def execLdReg (x y : Reg) (s : State) : Result := .next (s.setReg x (s.reg y))

/-- `OR Vx,Vy` (R113): VF is not written. -/
def execOrReg (x y : Reg) (s : State) : Result := .next (s.setReg x (s.reg x ||| s.reg y))

/-- `AND Vx,Vy` (R114). -/
def execAndReg (x y : Reg) (s : State) : Result := .next (s.setReg x (s.reg x &&& s.reg y))

/-- `XOR Vx,Vy` (R115). -/
def execXorReg (x y : Reg) (s : State) : Result := .next (s.setReg x (s.reg x ^^^ s.reg y))

/-- `ADD Vx,Vy` (R116). -/
def execAddReg (x y : Reg) (s : State) : Result :=
  let a := s.reg x
  let b := s.reg y
  .next (s.setRegFlag x (addMod a b) (carryOut a b))

/-- `SUB Vx,Vy` (R117). -/
def execSub (x y : Reg) (s : State) : Result :=
  let a := s.reg x
  let b := s.reg y
  .next (s.setRegFlag x (subMod a b) (noBorrow a b))

/-- `SHR Vx` (R118). -/
def execShr (x y : Reg) (s : State) : Result :=
  let src := shiftSource s x y
  .next (s.setRegFlag x (shiftRightOne src) (shiftedOutRight src))

/-- `SUBN Vx,Vy` (R119): the destination is still Vx. -/
def execSubn (x y : Reg) (s : State) : Result :=
  let a := s.reg x
  let b := s.reg y
  .next (s.setRegFlag x (subMod b a) (noBorrow b a))

/-- `SHL Vx` (R120). -/
def execShl (x y : Reg) (s : State) : Result :=
  let src := shiftSource s x y
  .next (s.setRegFlag x (shiftLeftOne src) (shiftedOutLeft src))

/-- `RND Vx,byte` (R121): one fresh draw, a free value (log 6). -/
def execRnd (x : Reg) (kk : Byte) (s : State) : Result :=
  let r := Config.draw s.draws
  .next (s.setReg x (r &&& kk)).countDraw

end Sys2Proof.Machine
end

