-- ==== Sys2Proof/Machine/Display.lean ====
section
/-! DEFINITION. The display engine (spec/43_display.md): CLS, and DRW with its XOR blitter and
collision detector, pixel by pixel as the pseudocode of R141 has it. -/

namespace Sys2Proof.Machine

/-- What the blitter works on: the framebuffer so far, and whether a pixel was turned off. -/
abbrev Blit := Framebuffer × Bool

/-- One sprite bit onto its wrapped pixel (R142), by XOR (R143). Bit 7 of the row is column 0. -/
def blitPixel (x0 y0 row : Nat) (b : Byte) (acc : Blit) (col : Nat) : Blit :=
  let bit := b.getLsbD (7 - col)
  let px := (x0 + col) % 64
  let py := (y0 + row) % 32
  let old := acc.1.pixel px py
  (acc.1.setPixel px py (old ^^ bit), acc.2 || (old && bit))

/-- One sprite row, columns 0 to 7 (R141). -/
def blitRow (x0 y0 row : Nat) (b : Byte) (acc : Blit) : Blit :=
  [0, 1, 2, 3, 4, 5, 6, 7].foldl (blitPixel x0 y0 row b) acc

/-- The sprite rows from `row` on (R141). -/
def blitRows (x0 y0 row : Nat) (sprite : List Byte) (acc : Blit) : Blit :=
  match sprite with
  | [] => acc
  | b :: rest => blitRows x0 y0 (row + 1) rest (blitRow x0 y0 row b acc)

/-- `CLS` (R140). -/
def execCls (s : State) : Result := .next (s.setFrame Framebuffer.clear)

/-- `DRW Vx,Vy,n` (R141): both coordinates are read before VF is written; VF is written last. -/
def execDrw (x y : Reg) (n : Nat) (s : State) : Result :=
  match s.readBlock s.i.toNat n with
  | none => raise .outOfBoundsAccess (encode (.drw x y n)) s.instrAddr s
  | some sprite =>
    let drawn := blitRows (originColumn (s.reg x)) (originRow (s.reg y)) 0 sprite (s.fb, false)
    .next ((s.setFrame drawn.1).setFlag drawn.2)

end Sys2Proof.Machine
end

