-- ==== Sys2Proof/Machine/Flow.lean ====
section
/-! DEFINITION. Control transfer (spec/40_flow.md). PC is already pc0 + 2 (30_encoding.md R70). -/

namespace Sys2Proof.Machine

/-- `RET` (R101). -/
def execRet (s : State) : Result :=
  match s.pop with
  | none => raise .stackUnderflow (encode .ret) s.instrAddr s
  | some (target, s') => .next (s'.jump target)

/-- `JP addr` (R102). -/
def execJp (nnn : Addr) (s : State) : Result := .next (s.jump (zext16 nnn))

/-- `CALL addr` (R103): PC, the address of the next instruction, is pushed. -/
def execCall (nnn : Addr) (s : State) : Result :=
  match s.push s.pc with
  | none => raise .stackOverflow (encode (.call nnn)) s.instrAddr s
  | some s' => .next (s'.jump (zext16 nnn))

/-- `SE Vx,byte` (R104). -/
def execSeByte (x : Reg) (kk : Byte) (s : State) : Result := .next (s.skipIf (s.reg x == kk))

/-- `SNE Vx,byte` (R105). -/
def execSneByte (x : Reg) (kk : Byte) (s : State) : Result := .next (s.skipIf (s.reg x != kk))

/-- `SE Vx,Vy` (R106). -/
def execSeReg (x y : Reg) (s : State) : Result := .next (s.skipIf (s.reg x == s.reg y))

/-- `SNE Vx,Vy` (R107). -/
def execSneReg (x y : Reg) (s : State) : Result := .next (s.skipIf (s.reg x != s.reg y))

/-- `JP V0,addr` (R108). -/
def execJpV0 (nnn : Addr) (s : State) : Result := .next (s.jump (indexedTarget nnn (s.reg V0)))

end Sys2Proof.Machine
end

