-- ==== Sys2Proof/Machine/IndexMemory.lean ====
section
/-! DEFINITION. Index register and memory transfer (spec/42_index_memory.md). The three memory
instructions check their whole range first (R136). -/

namespace Sys2Proof.Machine

/-- `LD I,addr` (R130). -/
def execLdI (nnn : Addr) (s : State) : Result := .next (s.setIndex (zext16 nnn))

/-- `ADD I,Vx` (R131): VF is written, last, in mode W16_VF only. -/
def execAddIVx (x : Reg) (s : State) : Result :=
  let b := s.reg x
  let s' := s.setIndex (indexSum s.cfg.addIMode s.i b)
  match s.cfg.addIMode with
  | .w16 => .next s'
  | .w12 => .next s'
  | .w16Vf => .next (s'.setFlag (indexOverflow s.i b))

/-- `LD F,Vx` (R132). -/
def execLdFVx (x : Reg) (s : State) : Result := .next (s.setIndex (glyphAddr (s.reg x)))

/-- `LD B,Vx` (R133). -/
def execLdBVx (x : Reg) (s : State) : Result :=
  match s.writeBlock s.i.toNat (bcdDigits (s.reg x)) with
  | none => raise .outOfBoundsAccess (encode (.ldBVx x)) s.instrAddr s
  | some s' => .next s'

/-- `LD [I],Vx` (R134): I stays as it is. -/
def execLdMemVx (x : Reg) (s : State) : Result :=
  match s.writeBlock s.i.toNat (regsUpTo s x) with
  | none => raise .outOfBoundsAccess (encode (.ldMemVx x)) s.instrAddr s
  | some s' => .next s'

/-- `LD Vx,[I]` (R135): I stays as it is. -/
def execLdVxMem (x : Reg) (s : State) : Result :=
  match s.readBlock s.i.toNat (x.val + 1) with
  | none => raise .outOfBoundsAccess (encode (.ldVxMem x)) s.instrAddr s
  | some bytes => .next (loadRegs s 0 bytes)

end Sys2Proof.Machine
end

