-- ==== Sys2Proof/Machine/KeypadTimers.lean ====
section
/-! DEFINITION. Keypad and timer instructions (spec/44_keypad_timers.md). -/

namespace Sys2Proof.Machine

/-- `SKP Vx` (R150). -/
def execSkp (x : Reg) (s : State) : Result := .next (s.skipIf (keyPressed s (s.reg x)))

/-- `SKNP Vx` (R151). -/
def execSknp (x : Reg) (s : State) : Result := .next (s.skipIf (!keyPressed s (s.reg x)))

/-- `LD Vx,DT` (R153). -/
def execLdVxDt (x : Reg) (s : State) : Result := .next (s.setReg x s.dt)

/-- `LD Vx,K` (R152): the part that a Step executes. It always suspends, whatever keys are held; the key
wake of 60_exceptions.md R173 (`State.keyWake`) completes it. -/
def execLdVxK (x : Reg) (s : State) : Result := .next (s.suspend x)

/-- `LD DT,Vx` (R154). -/
def execLdDtVx (x : Reg) (s : State) : Result := .next (s.setDelay (s.reg x))

/-- `LD ST,Vx` (R155). -/
def execLdStVx (x : Reg) (s : State) : Result := .next (s.setSound (s.reg x))

end Sys2Proof.Machine
end

