-- ==== Sys2Proof/Machine/Events.lean ====
section
/-! DEFINITION. The five events (spec/00_scope.md R9): the instruction cycle `Step` (30_encoding.md
R70), `Tick`, `SetKeys` with the key wake (60_exceptions.md R170 to R173), `LoadProgram` and `Reset`
(70_reset_and_hazards.md R190, R191), and a run as the fold of the events (60_exceptions.md R174). -/

namespace Sys2Proof.Machine

/-! ## Step (30_encoding.md R70) -/

/-- `Step`, one instruction cycle: nothing while halted or suspended; else fetch, advance, decode,
execute. The word of a fetch that failed is 0x0000 (92_eei_decisions.md D22). -/
def cycle (s : State) : Result :=
  if s.halt || s.wait then .next s
  else
    match s.fetchWord with
    | none => raise .outOfBoundsFetch 0 s.pc s
    | some op =>
      match decode op with
      | .ok i => exec i s.advance
      | .error _ => raise .unknownOpcode op s.pc s.advance

/-! ## Tick (60_exceptions.md R170) -/

/-- A timer at 0 stays at 0. -/
def countDown (b : Byte) : Byte := if b.toNat > 0 then b - 1 else b

/-- `Tick`: both timers count down, whatever WAIT and HALT are (92_eei_decisions.md D16). -/
def State.tick (s : State) : State := { s with dt := countDown s.dt, st := countDown s.st }

/-! ## SetKeys (60_exceptions.md R172, R173) -/

/-- The keys that went from not pressed to pressed. -/
def freshKeys (old k : BitVec 16) : BitVec 16 := k &&& ~~~ old

/-- The smallest index of a fresh key (R173). -/
def lowestKey (fresh : BitVec 16) : Option Reg := (List.finRange 16).find? fun j => fresh.getLsbD j.val

/-- The key wake: `V[WREG] <- j; PC <- PC + 2; WAIT <- 0` with `j` the lowest fresh key; it completes
`LD Vx,K` (44_keypad_timers.md R152). Without a fresh key the block stays suspended. -/
def State.keyWake (s : State) (fresh : BitVec 16) : State :=
  match lowestKey fresh with
  | some j => { (s.setReg s.wreg (BitVec.ofNat 8 j.val)).skip with wait := false }
  | none => s

/-- `SetKeys(k)`: all sixteen bits are replaced; the wake test is made with the bits before, when
WAIT = 1 and HALT = 0 (90_conflicts.md C15). -/
def State.setKeys (s : State) (k : BitVec 16) : State :=
  let s' := { s with key := k }
  if s.wait && !s.halt then s'.keyWake (freshKeys s.key k) else s'

/-! ## LoadProgram and Reset (70_reset_and_hazards.md R190, R191) -/

/-- `LoadProgram(bytes)`: the bytes from 0x200 on, or, where they are more than 3584, no byte at all and
RomTooLarge, an earlier fault record being kept. -/
def State.loadProgram (s : State) (bytes : List Byte) : State :=
  if bytes.length > maxRom then
    if s.halt then s else s.halted .romTooLarge 0 s.pc
  else { s with mem := Memory.writeAll s.cfg.font s.mem progBase bytes }

/-- `Reset`: every element of the spec at its value after reset (10_state.md R35). The parameters stay,
the draws after it are fresh ones, and the host's plan and its coming events are the host's (log 19). -/
def State.resetEvent (s : State) : State :=
  { State.reset with
    cfg := s.cfg
    draws := s.draws
    schedule := s.schedule
    host := s.host
    turns := s.turns }

/-! ## Runs (60_exceptions.md R174) -/

/-- What an event does to the state. -/
def applyEvent (e : Event) (s : State) : Result :=
  match e with
  | .reset => .next s.resetEvent
  | .loadProgram bytes => .next (s.loadProgram bytes)
  | .step => cycle s
  | .tick => .next s.tick
  | .setKeys k => .next (s.setKeys k)

/-- The events that fall after the coming unlisted Step, by the host's plan: TICK_SCHEDULE, and the
host's other events (R171, R172; log 7). -/
def State.placed (s : State) : List Event :=
  match s.host with
  | .quiet => []
  | .ticking => List.replicate (Config.ticksAfter s.turns) .tick
  | .free => Config.hostEvents s.turns

/-- The host issues an unlisted Step: the events that fall after it are listed. -/
def State.openTurn (s : State) : State := { s with schedule := s.placed, turns := s.turns + 1 }

/-- The next event of the run: the head of the schedule, and a `Step` when none is listed (log 7). -/
def nextEvent (s : State) : Result :=
  match s.schedule with
  | [] => cycle s.openTurn
  | e :: rest => applyEvent e { s with schedule := rest }

/-- The fold of the event rules over a sequence of events. -/
def runEvents (events : List Event) (s : State) : Result :=
  match events with
  | [] => .next s
  | e :: rest =>
    match applyEvent e s with
    | .next s' => runEvents rest s'
    | .fault f => .fault f
    | .refused r => .refused r

/-- The first `n` events of an endless sequence of events, which is any function of their position: every
placement of the events (R171, R174). -/
def runUpTo (events : Nat → Event) (n : Nat) (s : State) : Result :=
  runEvents ((List.range n).map events) s

/-! ## Outputs (60_exceptions.md R168, R175, R176) -/

/-- What the host can see between two events. -/
structure Outputs where
  /-- the 64 by 32 grid (R175) -/
  frame : Framebuffer
  /-- the sound timer (R176) -/
  sound : Byte
  /-- the tone is on (R176) -/
  tone : Bool
  /-- HALT (R168) -/
  halt : Bool
  /-- ERR (R168) -/
  err : ErrRecord
  deriving DecidableEq, Repr

/-- tone = 1 when ST != 0 (R176). -/
def State.tone (s : State) : Bool := s.st != 0

/-- The outputs; reading them has no effect (R175). -/
def State.outputs (s : State) : Outputs where
  frame := s.fb
  sound := s.st
  tone := s.tone
  halt := s.halt
  err := s.err

/-- The number of a fault (60_exceptions.md R160). -/
def Fault.number (f : Fault) : Nat :=
  match f with
  | .outOfBoundsFetch => 1
  | .unknownOpcode => 2
  | .stackOverflow => 3
  | .stackUnderflow => 4
  | .romTooLarge => 5
  | .outOfBoundsAccess => 6

/-- ERR.code as a number, 0 = no fault (10_state.md R32, 60_exceptions.md R160). -/
def ErrRecord.number (e : ErrRecord) : Nat :=
  match e.code with
  | some f => f.number
  | none => 0

end Sys2Proof.Machine
end

