-- ==== Sys2Proof/Machine/Step.lean ====
section
/-! DEFINITION. One step of the machine, and the placing of an instruction where the next step fetches. -/

namespace Sys2Proof.Machine

/-- The machine's step: the next event of the run (spec/60_exceptions.md R174), the head of the schedule;
with no event listed it is `Step`, one instruction cycle (30_encoding.md R70), after which the host's plan
places its events (60_exceptions.md R171; log 7). -/
def step (s : State) : Host.Outcome State Fault Refusal := nextEvent s

/-- The address of the next fetch, or the entry point where PC is no fetchable address. -/
def State.fetchAddr (s : State) : Nat := if s.pc.toNat + 1 ≤ 0xFFF then s.pc.toNat else progBase

/-- `s` with the instruction of the table's bits `w` stored, high byte first, where the next step fetches,
and made ready to run it: not halted, not suspended, no event listed before it. It stands for a program load
(log 13). -/
def State.withFetchWord (s : State) (nbits w : Nat) : State :=
  let op := tableWord nbits w
  { s with
    pc := BitVec.ofNat 16 s.fetchAddr
    mem := Memory.writeAll s.cfg.font s.mem s.fetchAddr [highByte op, lowByte op]
    wait := false
    halt := false
    schedule := [] }

end Sys2Proof.Machine
end

