-- ==== Sys2Proof/Safety.lean ====
section
/-! DEFINITION. What counts as a safe run, the end of a run, fairness, and the invariant of the machine, in
the terms the statements use. -/

namespace Sys2Proof.Machine

/-- A faulted state: HALT = 1 is the block's fault outcome (spec/60_exceptions.md R167). -/
def State.faulted (s : State) : Bool := s.halt

/-- A safe state: no fault has been raised (60_exceptions.md R167: a faulted state is never a final state
of a correct run). -/
def State.safe (s : State) : Bool := !s.faulted

/-- The state runs: it is neither halted nor suspended, so that a `Step` is an instruction cycle
(30_encoding.md R70, 60_exceptions.md R184). -/
def State.running (s : State) : Bool := !s.halt && !s.wait

/-- The model's end-of-run predicate: the word at PC is a jump to PC itself (70_reset_and_hazards.md
R193, 92_eei_decisions.md D24). The hardware has none. -/
def State.atSelfJump (s : State) : Bool :=
  match s.fetchWord with
  | none => false
  | some op =>
    match decode op with
    | .ok (.jp nnn) => zext16 nnn == s.pc
    | _ => false

/-- The states that a run can reach, under any parameters and any sequence of events: a run starts with
`Reset` (60_exceptions.md R174). -/
inductive Reachable : State → Prop where
  /-- the state after `Reset`, whatever the parameters, the draws before it and the events to come -/
  | reset (s : State) : Reachable s.resetEvent
  /-- one event more -/
  | event {s t : State} (e : Event) (hs : Reachable s) (h : applyEvent e s = .next t) : Reachable t
  /-- one step more of the machine's own schedule -/
  | step {s t : State} (hs : Reachable s) (h : step s = .next t) : Reachable t

/-- Fairness, the one liveness assumption a claim may add (60_exceptions.md R171): both `Step` and `Tick`
occur infinitely often. No definition of the machine assumes it. -/
def Fair (events : Nat → Event) : Prop :=
  ∀ n, (∃ m, n ≤ m ∧ events m = .step) ∧ (∃ m, n ≤ m ∧ events m = .tick)

/-- The invariant: what the spec says of every state of a run and no single instruction says. -/
structure State.Inv (s : State) : Prop where
  /-- memory is in canonical form (log 8) -/
  memWf : Memory.wf s.cfg.font s.mem = true
  /-- the largest value PC can take is 0x10FE (10_state.md R23) -/
  pcBound : s.pc.toNat ≤ 0x10FE
  /-- a pushed return address is at most 0x1000 (40_flow.md R103) -/
  stackBound : ∀ k : Fin 16, s.stack[k.val].toNat ≤ 0x1000
  /-- while suspended, PC holds the address of the `LD Vx,K` (10_state.md R23), which was fetched -/
  waitPc : s.wait = true → s.pc.toNat ≤ 0xFFE
  /-- HALT and ERR are written together (10_state.md R32) -/
  haltErr : s.halt = s.err.code.isSome
  /-- with no fault recorded ERR is (0, 0, 0) (10_state.md R32, 60_exceptions.md R160) -/
  noFault : s.halt = false → s.err = ErrRecord.noFault
  /-- after a fault PC holds ERR.pc (10_state.md R23, 70_reset_and_hazards.md R191) -/
  errPc : s.halt = true → s.err.pc = s.pc
  /-- no word is recorded where none was fetched (60_exceptions.md R160) -/
  errWord : s.err.code = some .outOfBoundsFetch ∨ s.err.code = some .romTooLarge → s.err.opcode = 0
  /-- HALT and WAIT are both 1 only after a refused `LoadProgram` (60_exceptions.md R173) -/
  haltWait : s.halt = true → s.wait = true → s.err.code = some .romTooLarge
  /-- in mode W12 the upper four bits of I are 0 (10_state.md R22) -/
  indexBound : s.cfg.addIMode = .w12 → s.i.toNat < 4096

end Sys2Proof.Machine
end

