-- ==== Sys2Proof/Certificates/Slice0/Obligations.lean ====
section
/-! DEFINITION. The statements about the model for the provers, from the numbered rules of spec/. In a
statement about `exec`, PC is already pc0 + 2 as in the spec's pseudocode (30_encoding.md R70; log 2), so
pc0 is `s.pc - 2`. -/

namespace Sys2Proof.Statement

open Sys2Proof.Machine

/-! ## The words of the statements -/

/-- The elements of the state, by name. -/
inductive Elem where
  | v | i | pc | sp | stack | dt | st | key | fb | mem | wait | wreg | halt | err | cfg | draws | schedule
  | host | turns
  deriving DecidableEq, Repr

/-- An element is the same in two states; of memory, every byte reads the same. -/
def Same (e : Elem) (s t : State) : Prop :=
  match e with
  | .v => ∀ r, t.reg r = s.reg r
  | .i => t.i = s.i
  | .pc => t.pc = s.pc
  | .sp => t.sp = s.sp
  | .stack => t.stack = s.stack
  | .dt => t.dt = s.dt
  | .st => t.st = s.st
  | .key => t.key = s.key
  | .fb => t.fb = s.fb
  | .mem => ∀ a, t.readByte a = s.readByte a
  | .wait => t.wait = s.wait
  | .wreg => t.wreg = s.wreg
  | .halt => t.halt = s.halt
  | .err => t.err = s.err
  | .cfg => t.cfg = s.cfg
  | .draws => t.draws = s.draws
  | .schedule => t.schedule = s.schedule
  | .host => t.host = s.host
  | .turns => t.turns = s.turns

/-- The frame: everything but the elements listed is unchanged from `s` to `t`. -/
def OnlyChanges (es : List Elem) (s t : State) : Prop := ∀ e, e ∉ es → Same e s t

/-- Of the registers, only `x` may differ. -/
def OnlyReg (x : Reg) (s t : State) : Prop := ∀ r, r ≠ x → t.reg r = s.reg r

/-- Of the registers, only `x` and VF may differ. -/
def OnlyRegAndFlag (x : Reg) (s t : State) : Prop := ∀ r, r ≠ x → r ≠ VF → t.reg r = s.reg r

/-- `t` is `s` halted by the fault `f`: HALT = 1, ERR = (f, op, pc0), PC = pc0, and nothing else
(60_exceptions.md R167). -/
def HaltedBy (s t : State) (f : Fault) (op pc0 : Word) : Prop :=
  t.halt = true ∧ t.err = ⟨some f, op, pc0⟩ ∧ t.pc = pc0 ∧ OnlyChanges [.pc, .halt, .err] s t

/-- `w` is the word of `i`, both ways. -/
def EncodedAs (i : Instr) (w : Nat) : Prop :=
  decode (BitVec.ofNat 16 w) = .ok i ∧ encode i = BitVec.ofNat 16 w

/-- The word that the two bytes at `a` and `a + 1` form, the first the high one. -/
def wordAt (s : State) (a : Nat) : Word :=
  BitVec.ofNat 16 (256 * (s.readByte a).toNat + (s.readByte (a + 1)).toNat)

/-- Memory is in canonical form, an invariant of the machine (`InvariantKeptByEveryStep`). -/
def MemOk (s : State) : Prop := Memory.wf s.cfg.font s.mem = true

/-- One instruction after another, each with PC advanced past it first. -/
def runInstrs (is : List Instr) (s : State) : Result :=
  match is with
  | [] => .next s
  | i :: rest =>
    match exec i { s with pc := s.pc + 2 } with
    | .next t => runInstrs rest t
    | .fault f => .fault f
    | .refused r => .refused r

end Sys2Proof.Statement

open Sys2Proof Sys2Proof.Machine Sys2Proof.Statement

/-! ## Encoding and decoding (30_encoding.md) -/

/-- Words and their instructions as 95_test_vectors.md 2.8 lists them. A sanity statement. -/
def Obligations.DecodesWordsOfTheSpec : Prop :=
  decode 0x00E0 = .ok .cls ∧ decode 0x00EE = .ok .ret ∧ decode 0x1ABC = .ok (.jp 0xABC) ∧
  decode 0x3A42 = .ok (.seByte 0xA 0x42) ∧ decode 0x8AB4 = .ok (.addReg 0xA 0xB) ∧
  decode 0x8ABE = .ok (.shl 0xA 0xB) ∧ decode 0xD125 = .ok (.drw 1 2 5) ∧
  decode 0xE5A1 = .ok (.sknp 5) ∧ decode 0xF533 = .ok (.ldBVx 5) ∧ decode 0xF51E = .ok (.addIVx 5) ∧
  decode 0xF51F = .error (.unknownOpcode 0xF51F) ∧ decode 0x5AB1 = .error (.unknownOpcode 0x5AB1)

/-- Every well-formed instruction, with every operand at every value, decodes from its word and from its
two bytes at the head of any stream. -/
def Obligations.DecodeEncodeRoundTrip : Prop :=
  ∀ i : Instr, WellFormed i = true →
    decode (encode i) = .ok i ∧ ∀ rest, decodeBytes (encodeBytes i ++ rest) = .ok (i, rest)

/-- Every word that decodes is the encoding of a well-formed instruction: no bit of it is dropped. -/
def Obligations.EncodeDecodeRoundTrip : Prop :=
  ∀ (w : Word) (i : Instr), decode w = .ok i → WellFormed i = true ∧ encode i = w

/-- The match and mask columns of the opcode map (30_encoding.md R76), in its order. -/
def Sys2Proof.Statement.opcodeMap : List (Word × Word) := [
  (0x00E0, 0xFFFF), (0x00EE, 0xFFFF), (0x1000, 0xF000), (0x2000, 0xF000), (0x3000, 0xF000),
  (0x4000, 0xF000), (0x5000, 0xF00F), (0x6000, 0xF000), (0x7000, 0xF000), (0x8000, 0xF00F),
  (0x8001, 0xF00F), (0x8002, 0xF00F), (0x8003, 0xF00F), (0x8004, 0xF00F), (0x8005, 0xF00F),
  (0x8006, 0xF00F), (0x8007, 0xF00F), (0x800E, 0xF00F), (0x9000, 0xF00F), (0xA000, 0xF000),
  (0xB000, 0xF000), (0xC000, 0xF000), (0xD000, 0xF000), (0xE09E, 0xF0FF), (0xE0A1, 0xF0FF),
  (0xF007, 0xF0FF), (0xF00A, 0xF0FF), (0xF015, 0xF0FF), (0xF018, 0xF0FF), (0xF01E, 0xF0FF),
  (0xF029, 0xF0FF), (0xF033, 0xF0FF), (0xF055, 0xF0FF), (0xF065, 0xF0FF)]

/-- The decode procedure (30_encoding.md R75): a word decodes to an instruction exactly when it matches that
instruction's row, a row of the opcode map; it decodes to some instruction exactly when it matches some row;
and no word matches two rows. That the patterns are exact is the spec's decision D17. -/
def Obligations.DecodeFindsTheOneRow : Prop :=
  (∀ (w : Word) (i : Instr), decode w = .ok i →
    opcodeRow i ∈ opcodeMap ∧ w &&& (opcodeRow i).2 = (opcodeRow i).1) ∧
  (∀ (w : Word) (row : Word × Word), row ∈ opcodeMap → w &&& row.2 = row.1 → ∃ i, decode w = .ok i ∧ opcodeRow i = row) ∧
  (∀ (w : Word) (row row' : Word × Word), row ∈ opcodeMap → row' ∈ opcodeMap →
    w &&& row.2 = row.1 → w &&& row'.2 = row'.1 → row = row')

/-- The unknown words by family, as 30_encoding.md R77 lists them. -/
def Sys2Proof.Statement.UnknownWord (w : Nat) : Prop :=
  (w / 4096 = 0x0 ∧ w ≠ 0x00E0 ∧ w ≠ 0x00EE) ∨
  (w / 4096 = 0x5 ∧ w % 16 ≠ 0) ∨
  (w / 4096 = 0x8 ∧ w % 16 ∈ [0x8, 0x9, 0xA, 0xB, 0xC, 0xD, 0xF]) ∨
  (w / 4096 = 0x9 ∧ w % 16 ≠ 0) ∨
  (w / 4096 = 0xE ∧ w % 256 ∉ [0x9E, 0xA1]) ∨
  (w / 4096 = 0xF ∧ w % 256 ∉ [0x07, 0x0A, 0x15, 0x18, 0x1E, 0x29, 0x33, 0x55, 0x65])

/-- The decoder rejects exactly the unknown words of R77, by name, and nothing is rejected otherwise. That
the patterns are exact is the spec's decision D17. -/
def Obligations.UnknownWordsAreThoseListed : Prop :=
  ∀ w : Word,
    (UnknownWord w.toNat → decode w = .error (.unknownOpcode w)) ∧
    (¬ UnknownWord w.toNat → ∃ i, decode w = .ok i)

/-! ## The instruction cycle and the faults of a cycle (30_encoding.md R70, 60_exceptions.md) -/

/-- A step runs the decoded instruction: with the block running and the bytes at PC decoding to `i`, the
step is `exec` of `i` at the state with PC moved past the instruction. With a `Step` listed that event is
taken off the schedule; with nothing listed the Step is an unlisted one, and the events that the host's plan
places after it are listed. The schedule and the plan are the model's own fields (log 7). -/
def Obligations.StepRunsTheDecodedInstruction : Prop :=
  ∀ (s : State) (i : Instr), s.halt = false → s.wait = false → s.pc.toNat + 1 ≤ 0xFFF →
    decode (wordAt s s.pc.toNat) = .ok i →
    (s.schedule = [] →
      step s = exec i { s with pc := s.pc + 2, schedule := s.placed, turns := s.turns + 1 }) ∧
    (∀ rest, s.schedule = .step :: rest →
      step s = exec i { s with pc := s.pc + 2, schedule := rest })

/-- The instruction cycle by cases (30_encoding.md R70): nothing while halted or suspended; a fetch beyond
0xFFF faults; a word of no row faults, the advance undone; else the instruction executes with PC already pc0
+ 2. The spec's decisions D5, D22 and D23. -/
def Obligations.InstructionCycleByCases : Prop :=
  ∀ s : State,
    (s.halt = true ∨ s.wait = true → applyEvent .step s = .next s) ∧
    (s.halt = false → s.wait = false →
      (s.pc.toNat + 1 > 0xFFF →
        ∃ t, applyEvent .step s = .next t ∧ HaltedBy s t .outOfBoundsFetch 0 s.pc) ∧
      (s.pc.toNat + 1 ≤ 0xFFF →
        (∀ i, decode (wordAt s s.pc.toNat) = .ok i →
          applyEvent .step s = exec i { s with pc := s.pc + 2 }) ∧
        (∀ e, decode (wordAt s s.pc.toNat) = .error e →
          ∃ t, applyEvent .step s = .next t ∧
            HaltedBy s t .unknownOpcode (wordAt s s.pc.toNat) s.pc)))

/-- The fetch is big-endian, at an odd PC as at an even one (20_memory.md R53, R55): the byte at PC is the
high byte. That an odd PC is no fault is the spec's decision D7. -/
def Obligations.FetchIsBigEndianAtAnyPc : Prop :=
  ∀ s : State, s.pc.toNat + 1 ≤ 0xFFF →
    ∃ w, s.fetchWord = some w ∧
      w.toNat / 256 = (s.readByte s.pc.toNat).toNat ∧
      w.toNat % 256 = (s.readByte (s.pc.toNat + 1)).toNat

/-- OutOfBoundsFetch (60_exceptions.md R161): exactly at pc0 = 0xFFF or above a running block's cycle
records code 1, with no word and PC = pc0. The spec's decisions D5 and D22. -/
def Obligations.FetchBeyondMemoryHalts : Prop :=
  ∀ s : State, s.halt = false → s.wait = false →
    (s.pc.toNat ≥ 0xFFF →
      ∃ t, applyEvent .step s = .next t ∧ HaltedBy s t .outOfBoundsFetch 0 s.pc) ∧
    (s.pc.toNat < 0xFFF →
      ∀ t, applyEvent .step s = .next t → t.halt = true → t.err.code ≠ some .outOfBoundsFetch)

/-- UnknownOpcode (60_exceptions.md R162): a running block that fetches one of the unknown words halts with
that word in ERR. That it is fatal is the spec's decision D3. -/
def Obligations.UnknownOpcodeHalts : Prop :=
  ∀ s : State, s.halt = false → s.wait = false → s.pc.toNat + 1 ≤ 0xFFF →
    UnknownWord (wordAt s s.pc.toNat).toNat →
    ∃ t, applyEvent .step s = .next t ∧ HaltedBy s t .unknownOpcode (wordAt s s.pc.toNat) s.pc

/-- Faults are precise (60_exceptions.md R167): whatever fault a cycle raises, every element but HALT and
ERR keeps the value it had when the Step began, PC included; ERR holds the fetched word (0 where none was
fetched) and pc0; and every later Step is a no-op. The spec's decisions D3 and D5. -/
def Obligations.FaultsArePrecise : Prop :=
  ∀ s t : State, s.halt = false → applyEvent .step s = .next t → t.halt = true →
    ∃ f op, HaltedBy s t f op s.pc ∧
      (f = .outOfBoundsFetch → op = 0) ∧
      (f ≠ .outOfBoundsFetch → op = wordAt s s.pc.toNat) ∧
      applyEvent .step t = .next t

/-- The fault an event raises on a block that is not halted, by the table of 60_exceptions.md R160: the
code, ERR.opcode and ERR.pc; 0 for no fault. -/
def Sys2Proof.Statement.faultOf (e : Event) (s : State) : Nat × Word × Word :=
  match e with
  | .step =>
    if s.wait then (0, 0, 0)
    else if s.pc.toNat + 1 > 0xFFF then (1, 0, s.pc)
    else
      let w := wordAt s s.pc.toNat
      match decode w with
      | .error _ => (2, w, s.pc)
      | .ok (.call _) => if s.sp.val = 16 then (3, w, s.pc) else (0, 0, 0)
      | .ok .ret => if s.sp.val = 0 then (4, w, s.pc) else (0, 0, 0)
      | .ok (.drw _ _ n) => if n > 0 ∧ s.i.toNat + n - 1 > 0xFFF then (6, w, s.pc) else (0, 0, 0)
      | .ok (.ldBVx _) => if s.i.toNat + 2 > 0xFFF then (6, w, s.pc) else (0, 0, 0)
      | .ok (.ldMemVx x) => if s.i.toNat + x.val > 0xFFF then (6, w, s.pc) else (0, 0, 0)
      | .ok (.ldVxMem x) => if s.i.toNat + x.val > 0xFFF then (6, w, s.pc) else (0, 0, 0)
      | .ok _ => (0, 0, 0)
  | .loadProgram bytes => if bytes.length > 3584 then (5, 0, s.pc) else (0, 0, 0)
  | .reset => (0, 0, 0)
  | .tick => (0, 0, 0)
  | .setKeys _ => (0, 0, 0)

/-- The faults and their conditions (60_exceptions.md R160, R169): on a block that is not halted, an event
leaves HALT = 1 exactly when the table gives it a fault, and ERR is then the table's; no other instruction
and no other event can fault. The spec's decisions D4, D6 and D21. -/
def Obligations.FaultsAreThoseOfTheTable : Prop :=
  ∀ (e : Event) (s t : State), s.halt = false → applyEvent e s = .next t →
    (t.halt = true ↔ (faultOf e s).1 ≠ 0) ∧
    (t.halt = true → t.err.number = (faultOf e s).1 ∧ t.err.opcode = (faultOf e s).2.1 ∧
      t.err.pc = (faultOf e s).2.2)

/-- The only way out of HALT = 1 is `Reset` (60_exceptions.md R181, R184): every other event keeps HALT and
the first fault's ERR, and changes at most DT, ST and KEY, and memory by a `LoadProgram`. The spec's
decisions D3 and D16. -/
def Obligations.HaltedUntilReset : Prop :=
  ∀ s : State, s.halt = true →
    (∀ e t, e ≠ .reset → applyEvent e s = .next t →
      t.halt = true ∧ t.err = s.err ∧ OnlyChanges [.dt, .st, .key, .mem] s t ∧
      ((∀ bytes : List Byte, e ≠ .loadProgram bytes) → Same .mem s t)) ∧
    (∃ t, applyEvent .reset s = .next t ∧ t.halt = false ∧ t.err.number = 0)

/-- Every event is accepted in every state (92_eei_decisions.md D23): a meaning, an event and a step always
answer a next state. That a fault of the block is a next state is the model's choice (log 1). -/
def Obligations.EveryStepAnswersANextState : Prop :=
  (∀ (i : Instr) (s : State), ∃ t, exec i s = .next t) ∧
  (∀ (e : Event) (s : State), ∃ t, applyEvent e s = .next t) ∧
  (∀ s : State, ∃ t, step s = .next t)

/-! ## Invariants -/

/-- The invariant holds after `Reset`, whatever the state before it, and at the machine's reset state. The
form of memory in it is the model's (log 8). -/
def Obligations.InvariantHoldsAtReset : Prop :=
  State.reset.Inv ∧ ∀ s : State, s.resetEvent.Inv

/-- Every step of the machine, whatever event it delivers, keeps the invariant. The form of memory in it is
the model's (log 8). -/
def Obligations.InvariantKeptByEveryStep : Prop :=
  ∀ s t : State, s.Inv → step s = .next t → t.Inv

/-- In every state of every run, under any parameters and any events, PC is at most 0x10FE, a return address
at most 0x1000, I of mode W12 below 0x1000 (10_state.md R22, R23), memory is in canonical form, and the
block is halted exactly when ERR records a fault (10_state.md R32). The form of memory is the model's (log
8), the range of PC the spec's own inference. -/
def Obligations.ReachableStatesAreBounded : Prop :=
  ∀ s : State, Reachable s →
    s.pc.toNat ≤ 0x10FE ∧ (∀ k : Fin 16, s.stack[k.val].toNat ≤ 0x1000) ∧
    (s.cfg.addIMode = .w12 → s.i.toNat < 0x1000) ∧ MemOk s ∧
    (s.halt = true ↔ s.err.number ≠ 0)

/-- The canonical form of memory (log 8, the model's own): two memories of that form whose 4096 bytes read
alike are the same data. -/
def Obligations.EqualBytesAreEqualMemories : Prop :=
  ∀ s t : State, MemOk s → MemOk t → t.cfg = s.cfg →
    (∀ a, a ≤ 0xFFF → t.readByte a = s.readByte a) → t.mem = s.mem

/-! ## Reset and program load (70_reset_and_hazards.md) -/

/-- The state after `Reset` (10_state.md R35, 70_reset_and_hazards.md R190): every element at its value in
the table, FONT at 0x050 to 0x09F and 0 in the rest of memory; the draws after it are not those before it.
The machine's own reset state is one of these. Memory outside the font, KEY, WAIT, WREG, HALT and ERR are
the spec's decision D13; what stays is the model's choice (log 19). -/
def Obligations.ResetGivesTheTable : Prop :=
  (∀ s : State, ∃ t, applyEvent .reset s = .next t ∧
    (∀ r, t.reg r = 0) ∧ t.i = 0 ∧ t.pc = 0x200 ∧ t.sp = 0 ∧
    (∀ k : Fin 16, t.stack[k.val] = 0) ∧ t.dt = 0 ∧ t.st = 0 ∧
    (∀ x y, t.fb.pixel x y = false) ∧
    (∀ d r : Nat, (hd : d < 16) → (hr : r < 5) →
      t.readByte (0x050 + 5 * d + r) = s.cfg.font[5 * d + r]) ∧
    (∀ a, a ≤ 0x04F ∨ (0x0A0 ≤ a ∧ a ≤ 0xFFF) → t.readByte a = 0) ∧
    t.key = 0 ∧ t.wait = false ∧ t.wreg = 0 ∧ t.halt = false ∧ t.err = ⟨none, 0, 0⟩ ∧
    t.err.number = 0 ∧ t.cfg = s.cfg ∧ t.draws = s.draws) ∧
  applyEvent .reset State.reset = .next State.reset

/-- `LoadProgram` (70_reset_and_hazards.md R191): at most 3584 bytes are copied to 0x200 onwards and nothing
else changes; more are refused whole, with HALT = 1 and ERR = (5, 0, PC) unless the block is halted. What a
refusal leaves is the spec's decision D21. -/
def Obligations.LoadProgramCopiesOrRefuses : Prop :=
  ∀ (s : State) (bytes : List Byte), MemOk s →
    (bytes.length ≤ 3584 →
      ∃ t, applyEvent (.loadProgram bytes) s = .next t ∧ OnlyChanges [.mem] s t ∧
        (∀ k, (h : k < bytes.length) → t.readByte (0x200 + k) = bytes[k]) ∧
        (∀ a, a < 0x200 ∨ 0x200 + bytes.length ≤ a → t.readByte a = s.readByte a)) ∧
    (bytes.length > 3584 → s.halt = false →
      ∃ t, applyEvent (.loadProgram bytes) s = .next t ∧ HaltedBy s t .romTooLarge 0 s.pc) ∧
    (bytes.length > 3584 → s.halt = true → applyEvent (.loadProgram bytes) s = .next s)

/-- A word placed by `withFetchWord` is what the next step runs (the host's interface; log 13): the model's
own convention, no rule of the spec. -/
def Obligations.FetchWordPlacedIsRun : Prop :=
  ∀ (s : State) (w : Nat) (i : Instr), MemOk s → decodeTableWord 16 w = some i →
    let u := s.withFetchWord 16 w
    step u = exec i { u with pc := u.pc + 2, schedule := u.placed, turns := u.turns + 1 }

/-! ## Control transfer (40_flow.md) -/

/-- `RET` (40_flow.md R101): the entry below SP becomes PC and SP falls by one, the entry keeping its value;
with SP = 0 it raises StackUnderflow. What a raise leaves is the spec's decisions D3 and D5. -/
def Obligations.RetPopsThePc : Prop :=
  EncodedAs .ret 0x00EE ∧
  ∀ s : State,
    (∀ k : Fin 16, s.sp.val = k.val + 1 →
      ∃ t, exec .ret s = .next t ∧ t.sp.val = k.val ∧ t.pc = s.stack[k.val] ∧
        OnlyChanges [.sp, .pc] s t) ∧
    (s.sp.val = 0 →
      ∃ t, exec .ret s = .next t ∧ HaltedBy s t .stackUnderflow 0x00EE (s.pc - 2))

/-- `CALL addr` (40_flow.md R103): PC, the address of the next instruction, is stored at SP, SP rises by one
and PC is nnn; with SP = 16 it raises StackOverflow. What a raise leaves is the spec's decisions D3 and D5.
-/
def Obligations.CallPushesThePc : Prop :=
  ∀ (nnn : Addr) (s : State),
    EncodedAs (.call nnn) (0x2000 + nnn.toNat) ∧
    (∀ k : Fin 16, s.sp.val = k.val →
      ∃ t, exec (.call nnn) s = .next t ∧ t.stack[k.val] = s.pc ∧
        (∀ j : Fin 16, j ≠ k → t.stack[j.val] = s.stack[j.val]) ∧
        t.sp.val = k.val + 1 ∧ t.pc.toNat = nnn.toNat ∧ OnlyChanges [.stack, .sp, .pc] s t) ∧
    (s.sp.val = 16 →
      ∃ t, exec (.call nnn) s = .next t ∧
        HaltedBy s t .stackOverflow (BitVec.ofNat 16 (0x2000 + nnn.toNat)) (s.pc - 2))

/-- `JP addr` and `JP V0,addr` (40_flow.md R102, R108): PC is nnn, or nnn + V0 not reduced to 12 bits, and
nothing else changes. That the sum is not reduced is the spec's decision D25. -/
def Obligations.JumpsSetThePc : Prop :=
  ∀ (nnn : Addr) (s : State),
    EncodedAs (.jp nnn) (0x1000 + nnn.toNat) ∧ EncodedAs (.jpV0 nnn) (0xB000 + nnn.toNat) ∧
    (∃ t, exec (.jp nnn) s = .next t ∧ t.pc.toNat = nnn.toNat ∧ OnlyChanges [.pc] s t) ∧
    (∃ t, exec (.jpV0 nnn) s = .next t ∧ t.pc.toNat = nnn.toNat + (s.reg 0).toNat ∧
      OnlyChanges [.pc] s t)

/-- The four compare-and-skip instructions (40_flow.md R104 to R107): PC rises by two more exactly when the
comparison holds, and nothing else changes. -/
def Obligations.ComparesSkipOneInstruction : Prop :=
  ∀ (x y : Reg) (kk : Byte) (s : State),
    EncodedAs (.seByte x kk) (0x3000 + 256 * x.val + kk.toNat) ∧
    EncodedAs (.sneByte x kk) (0x4000 + 256 * x.val + kk.toNat) ∧
    EncodedAs (.seReg x y) (0x5000 + 256 * x.val + 16 * y.val) ∧
    EncodedAs (.sneReg x y) (0x9000 + 256 * x.val + 16 * y.val) ∧
    (∃ t, exec (.seByte x kk) s = .next t ∧
      t.pc = (if (s.reg x).toNat = kk.toNat then s.pc + 2 else s.pc) ∧ OnlyChanges [.pc] s t) ∧
    (∃ t, exec (.sneByte x kk) s = .next t ∧
      t.pc = (if (s.reg x).toNat = kk.toNat then s.pc else s.pc + 2) ∧ OnlyChanges [.pc] s t) ∧
    (∃ t, exec (.seReg x y) s = .next t ∧
      t.pc = (if (s.reg x).toNat = (s.reg y).toNat then s.pc + 2 else s.pc) ∧
      OnlyChanges [.pc] s t) ∧
    (∃ t, exec (.sneReg x y) s = .next t ∧
      t.pc = (if (s.reg x).toNat = (s.reg y).toNat then s.pc else s.pc + 2) ∧
      OnlyChanges [.pc] s t)

/-- CALL and RET round trip (95_test_vectors.md E5): any chain of nested CALLs that the stack has room for,
followed by as many RETs, comes back to the address after the first CALL with SP as before; nothing but the
stack entries from SP on has changed. -/
def Obligations.CallChainReturns : Prop :=
  ∀ (targets : List Addr) (s : State), targets ≠ [] → s.sp.val + targets.length ≤ 16 →
    ∃ t, runInstrs (targets.map .call ++ List.replicate targets.length .ret) s = .next t ∧
      t.pc = s.pc + 2 ∧ t.sp = s.sp ∧
      (∀ k : Fin 16, k.val < s.sp.val → t.stack[k.val] = s.stack[k.val]) ∧
      OnlyChanges [.pc, .stack] s t

/-- A jump to itself (70_reset_and_hazards.md R193): the block at such a jump stays as it is under every
further `Step`. The end-of-run predicate is the model's (decision D24). -/
def Obligations.SelfJumpIsStable : Prop :=
  ∀ (s : State) (nnn : Addr), s.halt = false → s.wait = false → s.pc.toNat = nnn.toNat →
    s.pc.toNat + 1 ≤ 0xFFF → (wordAt s s.pc.toNat).toNat = 0x1000 + nnn.toNat →
    s.atSelfJump = true ∧ ∀ n, runEvents (List.replicate n .step) s = .next s

/-! ## Registers and arithmetic (41_alu.md) -/

/-- `LD Vx,byte` and `LD Vx,Vy` (41_alu.md R110, R112): Vx takes the value, and nothing else changes. -/
def Obligations.LoadsSetVx : Prop :=
  ∀ (x y : Reg) (kk : Byte) (s : State),
    EncodedAs (.ldByte x kk) (0x6000 + 256 * x.val + kk.toNat) ∧
    EncodedAs (.ldReg x y) (0x8000 + 256 * x.val + 16 * y.val) ∧
    (∃ t, exec (.ldByte x kk) s = .next t ∧ t.reg x = kk ∧ OnlyReg x s t ∧ OnlyChanges [.v] s t) ∧
    (∃ t, exec (.ldReg x y) s = .next t ∧ t.reg x = s.reg y ∧ OnlyReg x s t ∧ OnlyChanges [.v] s t)

/-- `ADD Vx,byte` (41_alu.md R111): modulo 256, and no flag: VF is not written unless it is Vx. -/
def Obligations.AddByteWrapsWithoutFlag : Prop :=
  ∀ (x : Reg) (kk : Byte) (s : State),
    EncodedAs (.addByte x kk) (0x7000 + 256 * x.val + kk.toNat) ∧
    ∃ t, exec (.addByte x kk) s = .next t ∧
      (t.reg x).toNat = ((s.reg x).toNat + kk.toNat) % 256 ∧ OnlyReg x s t ∧ OnlyChanges [.v] s t

/-- `OR`, `AND`, `XOR` (41_alu.md R113 to R115): each bit of Vx is the operation on the bits of Vx and Vy;
VF is not written unless it is Vx. -/
def Obligations.LogicIsBitwise : Prop :=
  ∀ (x y : Reg) (s : State),
    EncodedAs (.orReg x y) (0x8001 + 256 * x.val + 16 * y.val) ∧
    EncodedAs (.andReg x y) (0x8002 + 256 * x.val + 16 * y.val) ∧
    EncodedAs (.xorReg x y) (0x8003 + 256 * x.val + 16 * y.val) ∧
    (∃ t, exec (.orReg x y) s = .next t ∧
      (∀ j, (t.reg x).getLsbD j = ((s.reg x).getLsbD j || (s.reg y).getLsbD j)) ∧
      OnlyReg x s t ∧ OnlyChanges [.v] s t) ∧
    (∃ t, exec (.andReg x y) s = .next t ∧
      (∀ j, (t.reg x).getLsbD j = ((s.reg x).getLsbD j && (s.reg y).getLsbD j)) ∧
      OnlyReg x s t ∧ OnlyChanges [.v] s t) ∧
    (∃ t, exec (.xorReg x y) s = .next t ∧
      (∀ j, (t.reg x).getLsbD j = ((s.reg x).getLsbD j ^^ (s.reg y).getLsbD j)) ∧
      OnlyReg x s t ∧ OnlyChanges [.v] s t)

/-- `ADD Vx,Vy` (41_alu.md R116): the sum modulo 256, then VF = 1 exactly when the sum exceeds 255; with
x = 15 the flag is what VF holds. -/
def Obligations.AddSetsTheCarry : Prop :=
  ∀ (x y : Reg) (s : State),
    EncodedAs (.addReg x y) (0x8004 + 256 * x.val + 16 * y.val) ∧
    ∃ t, exec (.addReg x y) s = .next t ∧
      (x ≠ VF → (t.reg x).toNat = ((s.reg x).toNat + (s.reg y).toNat) % 256) ∧
      (t.reg VF).toNat = (if (s.reg x).toNat + (s.reg y).toNat > 255 then 1 else 0) ∧
      OnlyRegAndFlag x s t ∧ OnlyChanges [.v] s t

/-- `SUB Vx,Vy` and `SUBN Vx,Vy` (41_alu.md R117, R119): the difference modulo 256, then VF = 1 exactly when
there is no borrow; with x = 15 the flag is what VF holds. -/
def Obligations.SubtractsSetNoBorrow : Prop :=
  ∀ (x y : Reg) (s : State),
    EncodedAs (.sub x y) (0x8005 + 256 * x.val + 16 * y.val) ∧
    EncodedAs (.subn x y) (0x8007 + 256 * x.val + 16 * y.val) ∧
    (∃ t, exec (.sub x y) s = .next t ∧
      (x ≠ VF → ((t.reg x).toNat : Int) = ((s.reg x).toNat - (s.reg y).toNat : Int) % 256) ∧
      (t.reg VF).toNat = (if (s.reg x).toNat ≥ (s.reg y).toNat then 1 else 0) ∧
      OnlyRegAndFlag x s t ∧ OnlyChanges [.v] s t) ∧
    (∃ t, exec (.subn x y) s = .next t ∧
      (x ≠ VF → ((t.reg x).toNat : Int) = ((s.reg y).toNat - (s.reg x).toNat : Int) % 256) ∧
      (t.reg VF).toNat = (if (s.reg y).toNat ≥ (s.reg x).toNat then 1 else 0) ∧
      OnlyRegAndFlag x s t ∧ OnlyChanges [.v] s t)

/-- `SHR Vx` and `SHL Vx` (41_alu.md R118, R120): the source, Vx or under SHIFT_SRC = VY Vy, shifted by one
into Vx, then the bit shifted out into VF; with x = 15 the flag is what VF holds. The parameter is the
spec's decision D10, its value VY log 16. -/
def Obligations.ShiftsSetTheBitShiftedOut : Prop :=
  ∀ (x y : Reg) (s : State) (src : Byte),
    (s.cfg.shiftSrc = .vx → src = s.reg x) → (s.cfg.shiftSrc = .vy → src = s.reg y) →
    EncodedAs (.shr x y) (0x8006 + 256 * x.val + 16 * y.val) ∧
    EncodedAs (.shl x y) (0x800E + 256 * x.val + 16 * y.val) ∧
    (∃ t, exec (.shr x y) s = .next t ∧
      (x ≠ VF → (t.reg x).toNat = src.toNat / 2) ∧ (t.reg VF).toNat = src.toNat % 2 ∧
      OnlyRegAndFlag x s t ∧ OnlyChanges [.v] s t) ∧
    (∃ t, exec (.shl x y) s = .next t ∧
      (x ≠ VF → (t.reg x).toNat = src.toNat * 2 % 256) ∧ (t.reg VF).toNat = src.toNat / 128 ∧
      OnlyRegAndFlag x s t ∧ OnlyChanges [.v] s t)

/-- `RND Vx,byte` (41_alu.md R121): one fresh draw, whatever it is, ANDed with kk; no bit outside kk is set.
The draw is the model's free value, its counter the model's own (log 6). -/
def Obligations.RandomIsAMaskedDraw : Prop :=
  ∀ (x : Reg) (kk : Byte) (s : State),
    EncodedAs (.rnd x kk) (0xC000 + 256 * x.val + kk.toNat) ∧
    ∃ t, exec (.rnd x kk) s = .next t ∧
      (∀ j, (t.reg x).getLsbD j = ((Config.draw s.draws).getLsbD j && kk.getLsbD j)) ∧
      t.draws = s.draws + 1 ∧ OnlyReg x s t ∧ OnlyChanges [.v, .draws] s t

/-! ## Index register and memory transfer (42_index_memory.md) -/

/-- `LD I,addr` and `LD F,Vx` (42_index_memory.md R130, R132): I is nnn, or 0x050 + 5 * Vx unmasked.
Unmasked is the spec's decision D12. -/
def Obligations.IndexLoads : Prop :=
  ∀ (x : Reg) (nnn : Addr) (s : State),
    EncodedAs (.ldI nnn) (0xA000 + nnn.toNat) ∧ EncodedAs (.ldFVx x) (0xF029 + 256 * x.val) ∧
    (∃ t, exec (.ldI nnn) s = .next t ∧ t.i.toNat = nnn.toNat ∧ OnlyChanges [.i] s t) ∧
    (∃ t, exec (.ldFVx x) s = .next t ∧ t.i.toNat = 0x050 + 5 * (s.reg x).toNat ∧
      OnlyChanges [.i] s t)

/-- `ADD I,Vx` (42_index_memory.md R131) in its three modes: W16 and W12 write no flag; W16_VF writes VF,
last, telling a sum above 0xFFF. The modes are the spec's decision D11, the threshold log 16. -/
def Obligations.AddIndexByMode : Prop :=
  ∀ (x : Reg) (s : State),
    EncodedAs (.addIVx x) (0xF01E + 256 * x.val) ∧
    ∃ t, exec (.addIVx x) s = .next t ∧
      (s.cfg.addIMode = .w16 →
        t.i.toNat = (s.i.toNat + (s.reg x).toNat) % 65536 ∧ OnlyChanges [.i] s t) ∧
      (s.cfg.addIMode = .w12 →
        t.i.toNat = (s.i.toNat + (s.reg x).toNat) % 4096 ∧ OnlyChanges [.i] s t) ∧
      (s.cfg.addIMode = .w16Vf →
        t.i.toNat = (s.i.toNat + (s.reg x).toNat) % 65536 ∧
        (t.reg VF).toNat = (if s.i.toNat + (s.reg x).toNat > 0xFFF then 1 else 0) ∧
        OnlyReg VF s t ∧ OnlyChanges [.i, .v] s t)

/-- `LD B,Vx` (42_index_memory.md R133): hundreds, tens and ones at I, I+1, I+2 and no other byte; beyond
0xFFF it raises OutOfBoundsAccess before any write. The fault is the spec's decision D6. -/
def Obligations.BcdStoresThreeDigits : Prop :=
  ∀ (x : Reg) (s : State), MemOk s →
    EncodedAs (.ldBVx x) (0xF033 + 256 * x.val) ∧
    (s.i.toNat + 2 ≤ 0xFFF →
      ∃ t, exec (.ldBVx x) s = .next t ∧
        (t.readByte s.i.toNat).toNat = (s.reg x).toNat / 100 ∧
        (t.readByte (s.i.toNat + 1)).toNat = (s.reg x).toNat / 10 % 10 ∧
        (t.readByte (s.i.toNat + 2)).toNat = (s.reg x).toNat % 10 ∧
        (∀ a, a < s.i.toNat ∨ s.i.toNat + 2 < a → t.readByte a = s.readByte a) ∧
        OnlyChanges [.mem] s t) ∧
    (s.i.toNat + 2 > 0xFFF →
      ∃ t, exec (.ldBVx x) s = .next t ∧
        HaltedBy s t .outOfBoundsAccess (BitVec.ofNat 16 (0xF033 + 256 * x.val)) (s.pc - 2))

/-- `LD [I],Vx` (42_index_memory.md R134): V0 to Vx at I to I+x and no other byte, I unchanged; beyond 0xFFF
it raises OutOfBoundsAccess before any write. The spec's decisions D6 and D19. -/
def Obligations.StoreRegistersToMemory : Prop :=
  ∀ (x : Reg) (s : State), MemOk s →
    EncodedAs (.ldMemVx x) (0xF055 + 256 * x.val) ∧
    (s.i.toNat + x.val ≤ 0xFFF →
      ∃ t, exec (.ldMemVx x) s = .next t ∧
        (∀ k : Reg, k.val ≤ x.val → t.readByte (s.i.toNat + k.val) = s.reg k) ∧
        (∀ a, a < s.i.toNat ∨ s.i.toNat + x.val < a → t.readByte a = s.readByte a) ∧
        OnlyChanges [.mem] s t) ∧
    (s.i.toNat + x.val > 0xFFF →
      ∃ t, exec (.ldMemVx x) s = .next t ∧
        HaltedBy s t .outOfBoundsAccess (BitVec.ofNat 16 (0xF055 + 256 * x.val)) (s.pc - 2))

/-- `LD Vx,[I]` (42_index_memory.md R135): V0 to Vx from I to I+x, the registers above Vx, I and memory
unchanged; beyond 0xFFF it raises OutOfBoundsAccess before any register is written. The spec's decisions D6
and D19. -/
def Obligations.LoadRegistersFromMemory : Prop :=
  ∀ (x : Reg) (s : State),
    EncodedAs (.ldVxMem x) (0xF065 + 256 * x.val) ∧
    (s.i.toNat + x.val ≤ 0xFFF →
      ∃ t, exec (.ldVxMem x) s = .next t ∧
        (∀ k : Reg, k.val ≤ x.val → t.reg k = s.readByte (s.i.toNat + k.val)) ∧
        (∀ k : Reg, x.val < k.val → t.reg k = s.reg k) ∧ OnlyChanges [.v] s t) ∧
    (s.i.toNat + x.val > 0xFFF →
      ∃ t, exec (.ldVxMem x) s = .next t ∧
        HaltedBy s t .outOfBoundsAccess (BitVec.ofNat 16 (0xF065 + 256 * x.val)) (s.pc - 2))

/-- A store to code is seen by the next fetch (20_memory.md R62): after `LD [I],Vx`, `LD B,Vx` or a
`LoadProgram`, a fetch at any address gets, as its high byte and as its low byte, the byte just stored where
one was stored and the old byte elsewhere. The spec marks the rule as derived. -/
def Obligations.StoresAreSeenByTheNextFetch : Prop :=
  ∀ (s t : State) (p : Word), MemOk s → p.toNat + 1 ≤ 0xFFF →
    (∀ x : Reg, s.halt = false → t.halt = false → exec (.ldMemVx x) s = .next t →
      ∃ w, { t with pc := p }.fetchWord = some w ∧
        (∀ k : Reg, k.val ≤ x.val →
          (p.toNat = s.i.toNat + k.val → w.toNat / 256 = (s.reg k).toNat) ∧
          (p.toNat + 1 = s.i.toNat + k.val → w.toNat % 256 = (s.reg k).toNat)) ∧
        (p.toNat < s.i.toNat ∨ s.i.toNat + x.val < p.toNat →
          w.toNat / 256 = (s.readByte p.toNat).toNat) ∧
        (p.toNat + 1 < s.i.toNat ∨ s.i.toNat + x.val < p.toNat + 1 →
          w.toNat % 256 = (s.readByte (p.toNat + 1)).toNat)) ∧
    (∀ x : Reg, s.halt = false → t.halt = false → exec (.ldBVx x) s = .next t →
      ∃ w, { t with pc := p }.fetchWord = some w ∧
        (p.toNat = s.i.toNat → w.toNat / 256 = (s.reg x).toNat / 100) ∧
        (p.toNat + 1 = s.i.toNat → w.toNat % 256 = (s.reg x).toNat / 100) ∧
        (p.toNat = s.i.toNat + 1 → w.toNat / 256 = (s.reg x).toNat / 10 % 10) ∧
        (p.toNat + 1 = s.i.toNat + 1 → w.toNat % 256 = (s.reg x).toNat / 10 % 10) ∧
        (p.toNat = s.i.toNat + 2 → w.toNat / 256 = (s.reg x).toNat % 10) ∧
        (p.toNat + 1 = s.i.toNat + 2 → w.toNat % 256 = (s.reg x).toNat % 10) ∧
        (p.toNat < s.i.toNat ∨ s.i.toNat + 2 < p.toNat →
          w.toNat / 256 = (s.readByte p.toNat).toNat) ∧
        (p.toNat + 1 < s.i.toNat ∨ s.i.toNat + 2 < p.toNat + 1 →
          w.toNat % 256 = (s.readByte (p.toNat + 1)).toNat)) ∧
    (∀ bytes : List Byte, bytes.length ≤ 3584 → applyEvent (.loadProgram bytes) s = .next t →
      ∃ w, { t with pc := p }.fetchWord = some w ∧
        (∀ k, (h : k < bytes.length) →
          (p.toNat = 0x200 + k → w.toNat / 256 = bytes[k].toNat) ∧
          (p.toNat + 1 = 0x200 + k → w.toNat % 256 = bytes[k].toNat)) ∧
        (p.toNat < 0x200 ∨ 0x200 + bytes.length ≤ p.toNat →
          w.toNat / 256 = (s.readByte p.toNat).toNat) ∧
        (p.toNat + 1 < 0x200 ∨ 0x200 + bytes.length ≤ p.toNat + 1 →
          w.toNat % 256 = (s.readByte (p.toNat + 1)).toNat))

/-! ## Display (43_display.md) -/

/-- `CLS` (43_display.md R140): every pixel off; nothing else changes, VF neither. -/
def Obligations.ClsClearsTheFramebuffer : Prop :=
  EncodedAs .cls 0x00E0 ∧
  ∀ s : State, ∃ t, exec .cls s = .next t ∧ (∀ x y, t.fb.pixel x y = false) ∧ OnlyChanges [.fb] s t

/-- The image S of 43_display.md R144: whether the sprite of `n` rows at I, its origin at column `x0` and
row `y0`, has an on bit that lands on pixel (`px`, `py`). The sprite pixel that lands there is the one of
column `(px - x0) mod 64` and row `(py - y0) mod 32`, if the sprite has it (R142); bit 7 is column 0. -/
def Sys2Proof.Statement.spriteImage (s : State) (x0 y0 n px py : Nat) : Bool :=
  let col := (px + 64 - x0) % 64
  let row := (py + 32 - y0) % 32
  decide (col < 8) && decide (row < n) && (s.readByte (s.i.toNat + row)).getLsbD (7 - col)

/-- `DRW Vx,Vy,n` (43_display.md R141 to R144): each pixel becomes old XOR the sprite's wrapped image, VF is
1 exactly when some pixel goes from on to off, and nothing else changes; a sprite that reaches beyond 0xFFF
raises OutOfBoundsAccess; with n = 0 no pixel changes, VF is 0 and no I faults. The spec's decisions D6 and
D18. -/
def Obligations.DrwXorsTheWrappedSprite : Prop :=
  ∀ (x y : Reg) (n : Nat) (s : State), n ≤ 15 →
    EncodedAs (.drw x y n) (0xD000 + 256 * x.val + 16 * y.val + n) ∧
    (n = 0 ∨ s.i.toNat + n - 1 ≤ 0xFFF →
      ∃ t, exec (.drw x y n) s = .next t ∧
        (∀ px py, px < 64 → py < 32 →
          t.fb.pixel px py = (s.fb.pixel px py ^^
            spriteImage s ((s.reg x).toNat % 64) ((s.reg y).toNat % 32) n px py)) ∧
        (t.reg VF = 1 ↔ ∃ px py, px < 64 ∧ py < 32 ∧ s.fb.pixel px py = true ∧
          spriteImage s ((s.reg x).toNat % 64) ((s.reg y).toNat % 32) n px py = true) ∧
        (t.reg VF = 0 ∨ t.reg VF = 1) ∧ OnlyReg VF s t ∧ OnlyChanges [.fb, .v] s t) ∧
    (n > 0 → s.i.toNat + n - 1 > 0xFFF →
      ∃ t, exec (.drw x y n) s = .next t ∧
        HaltedBy s t .outOfBoundsAccess (BitVec.ofNat 16 (0xD000 + 256 * x.val + 16 * y.val + n))
          (s.pc - 2))

/-- The same DRW twice restores the framebuffer (43_display.md R144), at coordinates that VF does not name;
the second VF is 1 exactly when some sprite bit fell on a pixel that was off before the first. The spec
marks the rule as derived. -/
def Obligations.DrwTwiceRestoresTheFramebuffer : Prop :=
  ∀ (x y : Reg) (n : Nat) (s : State), n ≤ 15 → x ≠ VF → y ≠ VF →
    (n = 0 ∨ s.i.toNat + n - 1 ≤ 0xFFF) →
    ∃ t u, exec (.drw x y n) s = .next t ∧ exec (.drw x y n) t = .next u ∧ u.fb = s.fb ∧
      OnlyReg VF s u ∧ OnlyChanges [.v] s u ∧
      (u.reg VF = 1 ↔ ∃ px py, px < 64 ∧ py < 32 ∧ s.fb.pixel px py = false ∧
        spriteImage s ((s.reg x).toNat % 64) ((s.reg y).toNat % 32) n px py = true)

/-! ## Keypad and timers (44_keypad_timers.md) -/

/-- `SKP Vx` and `SKNP Vx` (44_keypad_timers.md R150, R151): the low four bits of Vx select the key. -/
def Obligations.KeySkips : Prop :=
  ∀ (x : Reg) (s : State),
    EncodedAs (.skp x) (0xE09E + 256 * x.val) ∧ EncodedAs (.sknp x) (0xE0A1 + 256 * x.val) ∧
    (∃ t, exec (.skp x) s = .next t ∧
      t.pc = (if s.key.getLsbD ((s.reg x).toNat % 16) then s.pc + 2 else s.pc) ∧
      OnlyChanges [.pc] s t) ∧
    (∃ t, exec (.sknp x) s = .next t ∧
      t.pc = (if s.key.getLsbD ((s.reg x).toNat % 16) then s.pc else s.pc + 2) ∧
      OnlyChanges [.pc] s t)

/-- `j` is the lowest key that is pressed in `k` and was not pressed in `old` (60_exceptions.md R173). -/
def Sys2Proof.Statement.LowestFresh (old k : BitVec 16) (j : Nat) : Prop :=
  k.getLsbD j = true ∧ old.getLsbD j = false ∧
  ∀ j', j' < j → k.getLsbD j' = true → old.getLsbD j' = true

/-- No key goes from not pressed to pressed (60_exceptions.md R173). -/
def Sys2Proof.Statement.NoFresh (old k : BitVec 16) : Prop :=
  ∀ j, k.getLsbD j = true → old.getLsbD j = true

/-- `LD Vx,K` (44_keypad_timers.md R152): the Step suspends the block with PC back at the instruction,
whatever keys are held; later, the first `SetKeys` with a freshly pressed key puts the lowest such key into
Vx, moves PC past the instruction and ends the wait, and a `SetKeys` without one only updates KEY. The
spec's decision D8. -/
def Obligations.WaitForKeySuspendsUntilAFreshKey : Prop :=
  ∀ (x : Reg) (s : State),
    EncodedAs (.ldVxK x) (0xF00A + 256 * x.val) ∧
    ∃ t, exec (.ldVxK x) s = .next t ∧ t.pc = s.pc - 2 ∧ t.wreg = x ∧ t.wait = true ∧
      OnlyChanges [.pc, .wreg, .wait] s t ∧
      (s.halt = false → ∀ k,
        (∀ j, LowestFresh s.key k j →
          ∃ u, applyEvent (.setKeys k) t = .next u ∧ (u.reg x).toNat = j ∧ u.pc = s.pc ∧
            u.wait = false ∧ u.key = k ∧ OnlyReg x t u ∧ OnlyChanges [.v, .pc, .wait, .key] t u) ∧
        (NoFresh s.key k →
          ∃ u, applyEvent (.setKeys k) t = .next u ∧ u.key = k ∧ OnlyChanges [.key] t u))

/-- `LD Vx,DT`, `LD DT,Vx` and `LD ST,Vx` (44_keypad_timers.md R153 to R155); the tone follows ST at once
(60_exceptions.md R176). -/
def Obligations.TimerAccess : Prop :=
  ∀ (x : Reg) (s : State),
    EncodedAs (.ldVxDt x) (0xF007 + 256 * x.val) ∧ EncodedAs (.ldDtVx x) (0xF015 + 256 * x.val) ∧
    EncodedAs (.ldStVx x) (0xF018 + 256 * x.val) ∧
    (∃ t, exec (.ldVxDt x) s = .next t ∧ t.reg x = s.dt ∧ OnlyReg x s t ∧ OnlyChanges [.v] s t) ∧
    (∃ t, exec (.ldDtVx x) s = .next t ∧ t.dt = s.reg x ∧ OnlyChanges [.dt] s t) ∧
    (∃ t, exec (.ldStVx x) s = .next t ∧ t.st = s.reg x ∧ OnlyChanges [.st] s t ∧
      t.outputs.sound = s.reg x ∧ (t.outputs.tone = true ↔ (s.reg x).toNat ≠ 0))

/-! ## Host events (60_exceptions.md) -/

/-- `Tick` (60_exceptions.md R170): each timer falls by one unless it is 0, whatever WAIT and HALT are; it
reads and writes nothing else. That a halted block ticks is the spec's decision D16. -/
def Obligations.TickCountsBothTimersDown : Prop :=
  ∀ s : State, ∃ t, applyEvent .tick s = .next t ∧
    t.dt.toNat = (if s.dt.toNat > 0 then s.dt.toNat - 1 else 0) ∧
    t.st.toNat = (if s.st.toNat > 0 then s.st.toNat - 1 else 0) ∧ OnlyChanges [.dt, .st] s t

/-- Any number of ticks (60_exceptions.md R170, 95_test_vectors.md E7): the timers fall to 0 and stay
there. -/
def Obligations.TicksStopAtZero : Prop :=
  ∀ (n : Nat) (s : State), ∃ t, runEvents (List.replicate n .tick) s = .next t ∧
    t.dt.toNat = s.dt.toNat - n ∧ t.st.toNat = s.st.toNat - n ∧
    (t.outputs.tone = true ↔ s.st.toNat > n) ∧ OnlyChanges [.dt, .st] s t

/-- `SetKeys(k)` and the key wake (60_exceptions.md R172, R173): KEY is replaced; a suspended block that is
not halted wakes at the lowest fresh key; in every other case only KEY changes. The spec's decisions D8 and
D9. -/
def Obligations.SetKeysReplacesKeysAndWakes : Prop :=
  ∀ (s : State) (k : BitVec 16), ∃ t, applyEvent (.setKeys k) s = .next t ∧ t.key = k ∧
    (s.wait = true → s.halt = false → ∀ j, LowestFresh s.key k j →
      (t.reg s.wreg).toNat = j ∧ OnlyReg s.wreg s t ∧ t.pc = s.pc + 2 ∧ t.wait = false ∧
      OnlyChanges [.key, .v, .pc, .wait] s t) ∧
    (s.wait = false ∨ s.halt = true ∨ NoFresh s.key k → OnlyChanges [.key] s t)

/-- The suspension (44_keypad_timers.md R156): while WAIT = 1 a `Step` changes nothing, a `Tick` counts the
timers down, a `SetKeys` replaces KEY, the outputs stay readable, and only a key wake or a `Reset` ends
it. -/
def Obligations.SuspensionProperties : Prop :=
  ∀ s : State, s.wait = true →
    applyEvent .step s = .next s ∧
    s.outputs.frame = s.fb ∧ s.outputs.sound = s.st ∧ s.outputs.err = s.err ∧
    (∃ t, applyEvent .tick s = .next t ∧
      t.dt.toNat = s.dt.toNat - 1 ∧ t.st.toNat = s.st.toNat - 1 ∧
      OnlyChanges [.dt, .st] s t) ∧
    (∀ k : BitVec 16, ∃ t, applyEvent (.setKeys k) s = .next t ∧ t.key = k) ∧
    (∀ e t, applyEvent e s = .next t → t.wait = false →
      e = .reset ∨ (s.halt = false ∧ ∃ k, e = .setKeys k ∧ ¬ NoFresh s.key k))

/-- What each event may write (10_state.md R36): `Step` every element of the block but KEY; `Tick` DT and ST
only; `SetKeys` KEY, and V[WREG], PC and WAIT at a key wake only, that is on a suspended block that is not
halted, with a fresh key; `LoadProgram` the bytes from 0x200 on, or HALT and ERR when it refuses. -/
def Obligations.EventsWriteOnlyTheirElements : Prop :=
  ∀ s t : State,
    (applyEvent .step s = .next t → OnlyChanges
      [.v, .i, .pc, .sp, .stack, .mem, .fb, .dt, .st, .wait, .wreg, .halt, .err, .draws] s t) ∧
    (applyEvent .tick s = .next t → OnlyChanges [.dt, .st] s t) ∧
    (∀ k : BitVec 16, applyEvent (.setKeys k) s = .next t →
      OnlyChanges [.key, .v, .pc, .wait] s t ∧ OnlyReg s.wreg s t ∧
      (s.wait = false ∨ s.halt = true ∨ NoFresh s.key k → OnlyChanges [.key] s t)) ∧
    (∀ bytes : List Byte, MemOk s → applyEvent (.loadProgram bytes) s = .next t →
      OnlyChanges [.mem, .halt, .err] s t ∧
      (∀ a, a < 0x200 → t.readByte a = s.readByte a) ∧
      (bytes.length > 3584 → Same .mem s t) ∧ (bytes.length ≤ 3584 → OnlyChanges [.mem] s t))

/-- What no event changes, a choice of the model (log 4, log 6, log 7, log 19): no event changes the
parameters, the host's plan, its listed events or the count of its unlisted Steps, `Reset` neither; the draw
counter rises by at most one, and only by a `Step`. -/
def Obligations.EventsKeepTheModelsFields : Prop :=
  ∀ (e : Event) (s t : State), applyEvent e s = .next t →
    t.cfg = s.cfg ∧ t.host = s.host ∧ t.schedule = s.schedule ∧ t.turns = s.turns ∧
    (e ≠ .step → t.draws = s.draws) ∧ (t.draws = s.draws ∨ t.draws = s.draws + 1)

/-- A run is the fold of its events (60_exceptions.md R174): the machine, stepped once for each scheduled
event, reaches exactly what folding the event rules over the schedule gives. The schedule is the model's own
field (log 7). -/
def Obligations.ScheduleRunsTheFoldOfEvents : Prop :=
  ∀ (es : List Event) (s : State),
    Host.Core.run Sys2Proof.core es.length { s with schedule := es }
      = runEvents es { s with schedule := [] }

/-- TICK_SCHEDULE and the host's other events (60_exceptions.md R171, R174; the plan is the model's own
field, log 7): with nothing listed, the machine's next steps are one `Step` and then the events that the
host's plan places after it: none, any number of `Tick`s, or any events, the numbers and the events free
values. -/
def Obligations.UnlistedStepsAreFollowedByTheHostsEvents : Prop :=
  ∀ (s : State) (es : List Event), s.schedule = [] →
    (s.host = .quiet → es = []) →
    (s.host = .ticking → es = List.replicate (Config.ticksAfter s.turns) .tick) →
    (s.host = .free → es = Config.hostEvents s.turns) →
    Host.Core.run Sys2Proof.core (1 + es.length) s
      = runEvents (.step :: es) { s with turns := s.turns + 1 }

/-- The timers of a block that executes nothing run out (60_exceptions.md R171, 44_keypad_timers.md R156): in
every endless fair placement of `Step`s and `Tick`s, a halted or suspended block comes to DT = 0 and ST = 0,
stays there, and nothing but the timers has changed. Ticks while halted are the spec's decision D16, fairness
its decision D2. -/
def Obligations.FairTicksRunTheTimersOut : Prop :=
  ∀ (events : Nat → Event) (s : State), Fair events →
    (∀ n, events n = .step ∨ events n = .tick) → s.halt = true ∨ s.wait = true →
    ∃ n, ∀ m, n ≤ m → ∃ t, runUpTo events m s = .next t ∧ t.dt = 0 ∧ t.st = 0 ∧
      OnlyChanges [.dt, .st] s t

/-! ## Rules over all instructions -/

/-- The elements an instruction may write, faults included: the writers that 10_state.md R20 to R32 name
for each element. -/
def Sys2Proof.Statement.writeSet (i : Instr) : List Elem :=
  match i with
  | .cls => [.fb]
  | .ret => [.sp, .pc, .halt, .err]
  | .jp _ => [.pc]
  | .call _ => [.stack, .sp, .pc, .halt, .err]
  | .seByte _ _ => [.pc]
  | .sneByte _ _ => [.pc]
  | .seReg _ _ => [.pc]
  | .ldByte _ _ => [.v]
  | .addByte _ _ => [.v]
  | .ldReg _ _ => [.v]
  | .orReg _ _ => [.v]
  | .andReg _ _ => [.v]
  | .xorReg _ _ => [.v]
  | .addReg _ _ => [.v]
  | .sub _ _ => [.v]
  | .shr _ _ => [.v]
  | .subn _ _ => [.v]
  | .shl _ _ => [.v]
  | .sneReg _ _ => [.pc]
  | .ldI _ => [.i]
  | .jpV0 _ => [.pc]
  | .rnd _ _ => [.v, .draws]
  | .drw _ _ _ => [.v, .fb, .pc, .halt, .err]
  | .skp _ => [.pc]
  | .sknp _ => [.pc]
  | .ldVxDt _ => [.v]
  | .ldVxK _ => [.pc, .wait, .wreg]
  | .ldDtVx _ => [.dt]
  | .ldStVx _ => [.st]
  | .addIVx _ => [.i, .v]
  | .ldFVx _ => [.i]
  | .ldBVx _ => [.mem, .pc, .halt, .err]
  | .ldMemVx _ => [.mem, .pc, .halt, .err]
  | .ldVxMem _ => [.v, .pc, .halt, .err]

/-- The instructions whose own rule assigns PC: control transfer (40_flow.md), the key skips and the key
wait (44_keypad_timers.md). -/
def Sys2Proof.Statement.assignsPc (i : Instr) : Bool :=
  match i with
  | .ret => true
  | .jp _ => true
  | .call _ => true
  | .seByte _ _ => true
  | .sneByte _ _ => true
  | .seReg _ _ => true
  | .sneReg _ _ => true
  | .jpV0 _ => true
  | .skp _ => true
  | .sknp _ => true
  | .ldVxK _ => true
  | _ => false

/-- Every instruction writes only the elements of its set; HALT and ERR are written by a fault alone, an
instruction that does not assign PC leaves it at pc0 + 2, and a fault takes PC back to pc0 and writes HALT
and ERR, nothing else. That a fault takes PC back is the spec's decision D5. Which bytes of memory the two
stores leave alone is in `BcdStoresThreeDigits` and `StoreRegistersToMemory`. -/
def Obligations.InstructionsWriteOnlyTheirElements : Prop :=
  ∀ (i : Instr) (s t : State), exec i s = .next t →
    OnlyChanges (writeSet i) s t ∧
    (s.halt = false → t.halt = false → t.err = s.err ∧ (assignsPc i = false → t.pc = s.pc)) ∧
    (s.halt = false → t.halt = true → t.pc = s.pc - 2 ∧ OnlyChanges [.pc, .halt, .err] s t)

/-- The register an instruction names as its destination, if one. -/
def Sys2Proof.Statement.destination (i : Instr) : List Reg :=
  match i with
  | .ldByte x _ => [x]
  | .addByte x _ => [x]
  | .ldReg x _ => [x]
  | .orReg x _ => [x]
  | .andReg x _ => [x]
  | .xorReg x _ => [x]
  | .addReg x _ => [x]
  | .sub x _ => [x]
  | .shr x _ => [x]
  | .subn x _ => [x]
  | .shl x _ => [x]
  | .rnd x _ => [x]
  | .ldVxDt x => [x]
  | .ldVxMem x => (List.finRange 16).filter fun r => decide (r.val ≤ x.val)
  | _ => []

/-- The instructions that write VF as a flag output (10_state.md R21). -/
def Sys2Proof.Statement.writesFlag (i : Instr) (mode : AddIMode) : Bool :=
  match i with
  | .addReg _ _ => true
  | .sub _ _ => true
  | .shr _ _ => true
  | .subn _ _ => true
  | .shl _ _ => true
  | .drw _ _ _ => true
  | .addIVx _ => mode == .w16Vf
  | _ => false

/-- VF (10_state.md R21): no register changes but a named destination and, in the flag producers, VF; there
the flag is 0 or 1, with x = 15 too. -/
def Obligations.OnlyFlagProducersWriteVF : Prop :=
  ∀ (i : Instr) (s t : State), s.halt = false → exec i s = .next t → t.halt = false →
    (∀ r, t.reg r ≠ s.reg r →
      r ∈ destination i ∨ (r = VF ∧ writesFlag i s.cfg.addIMode = true)) ∧
    (writesFlag i s.cfg.addIMode = true → (t.reg VF).toNat ≤ 1)

/-- What no instruction can observe (60_exceptions.md R168, 10_state.md R26): HALT, ERR and ST do not
influence any other element. HALT and ERR are the spec's decision D3. -/
def Obligations.NoInstructionObservesHaltErrOrSound : Prop :=
  ∀ (i : Instr) (s : State) (h : Bool) (e : ErrRecord) (b : Byte),
    ∃ t t', exec i s = .next t ∧ exec i { s with halt := h, err := e, st := b } = .next t' ∧
      t' = { t with halt := t'.halt, err := t'.err, st := t'.st }

/-- Where the parameters matter (93_implementation_defined.md U2, U3): SHIFT_SRC only in a shift with
y ≠ x, and ADD_I_MODE only in `ADD I,Vx`, where below 0x1000 the three modes agree on I. -/
def Obligations.ParametersMatterOnlyWhereNamed : Prop :=
  ∀ (i : Instr) (s : State) (c : Config), c.font = s.cfg.font →
    (∀ x y, i = .shr x y ∨ i = .shl x y → x = y) →
    ((∀ x, i ≠ .addIVx x) →
      ∃ t, exec i s = .next t ∧ exec i { s with cfg := c } = .next { t with cfg := c }) ∧
    (∀ x, i = .addIVx x → s.i.toNat + (s.reg x).toNat ≤ 0xFFF →
      ∃ t t', exec i s = .next t ∧ exec i { s with cfg := c } = .next t' ∧ t'.i = t.i ∧
        t.i.toNat = s.i.toNat + (s.reg x).toNat)
end

