-- ==== Sys2Proof/Laws/State.lean ====
section
/-! SUPPORT. One lemma per field per update of State, so that no later proof unfolds a record update, and
what `reg` reads after each update. -/

namespace Sys2Proof.Machine

/-! ### setReg -/

@[simp] theorem State.setReg_i (s : State) (x : Reg) (b : Byte) : (s.setReg x b).i = s.i := rfl
@[simp] theorem State.setReg_pc (s : State) (x : Reg) (b : Byte) : (s.setReg x b).pc = s.pc := rfl
@[simp] theorem State.setReg_sp (s : State) (x : Reg) (b : Byte) : (s.setReg x b).sp = s.sp := rfl
@[simp] theorem State.setReg_stack (s : State) (x : Reg) (b : Byte) : (s.setReg x b).stack = s.stack := rfl
@[simp] theorem State.setReg_dt (s : State) (x : Reg) (b : Byte) : (s.setReg x b).dt = s.dt := rfl
@[simp] theorem State.setReg_st (s : State) (x : Reg) (b : Byte) : (s.setReg x b).st = s.st := rfl
@[simp] theorem State.setReg_key (s : State) (x : Reg) (b : Byte) : (s.setReg x b).key = s.key := rfl
@[simp] theorem State.setReg_fb (s : State) (x : Reg) (b : Byte) : (s.setReg x b).fb = s.fb := rfl
@[simp] theorem State.setReg_mem (s : State) (x : Reg) (b : Byte) : (s.setReg x b).mem = s.mem := rfl
@[simp] theorem State.setReg_readByte (s : State) (x : Reg) (b : Byte) (a : Nat) : (s.setReg x b).readByte a = s.readByte a := rfl
@[simp] theorem State.setReg_wait (s : State) (x : Reg) (b : Byte) : (s.setReg x b).wait = s.wait := rfl
@[simp] theorem State.setReg_wreg (s : State) (x : Reg) (b : Byte) : (s.setReg x b).wreg = s.wreg := rfl
@[simp] theorem State.setReg_halt (s : State) (x : Reg) (b : Byte) : (s.setReg x b).halt = s.halt := rfl
@[simp] theorem State.setReg_err (s : State) (x : Reg) (b : Byte) : (s.setReg x b).err = s.err := rfl
@[simp] theorem State.setReg_cfg (s : State) (x : Reg) (b : Byte) : (s.setReg x b).cfg = s.cfg := rfl
@[simp] theorem State.setReg_draws (s : State) (x : Reg) (b : Byte) : (s.setReg x b).draws = s.draws := rfl
@[simp] theorem State.setReg_schedule (s : State) (x : Reg) (b : Byte) : (s.setReg x b).schedule = s.schedule := rfl
@[simp] theorem State.setReg_host (s : State) (x : Reg) (b : Byte) : (s.setReg x b).host = s.host := rfl
@[simp] theorem State.setReg_turns (s : State) (x : Reg) (b : Byte) : (s.setReg x b).turns = s.turns := rfl

/-! ### setFlag -/

@[simp] theorem State.setFlag_i (s : State) (flag : Bool) : (s.setFlag flag).i = s.i := rfl
@[simp] theorem State.setFlag_pc (s : State) (flag : Bool) : (s.setFlag flag).pc = s.pc := rfl
@[simp] theorem State.setFlag_sp (s : State) (flag : Bool) : (s.setFlag flag).sp = s.sp := rfl
@[simp] theorem State.setFlag_stack (s : State) (flag : Bool) : (s.setFlag flag).stack = s.stack := rfl
@[simp] theorem State.setFlag_dt (s : State) (flag : Bool) : (s.setFlag flag).dt = s.dt := rfl
@[simp] theorem State.setFlag_st (s : State) (flag : Bool) : (s.setFlag flag).st = s.st := rfl
@[simp] theorem State.setFlag_key (s : State) (flag : Bool) : (s.setFlag flag).key = s.key := rfl
@[simp] theorem State.setFlag_fb (s : State) (flag : Bool) : (s.setFlag flag).fb = s.fb := rfl
@[simp] theorem State.setFlag_mem (s : State) (flag : Bool) : (s.setFlag flag).mem = s.mem := rfl
@[simp] theorem State.setFlag_readByte (s : State) (flag : Bool) (a : Nat) : (s.setFlag flag).readByte a = s.readByte a := rfl
@[simp] theorem State.setFlag_wait (s : State) (flag : Bool) : (s.setFlag flag).wait = s.wait := rfl
@[simp] theorem State.setFlag_wreg (s : State) (flag : Bool) : (s.setFlag flag).wreg = s.wreg := rfl
@[simp] theorem State.setFlag_halt (s : State) (flag : Bool) : (s.setFlag flag).halt = s.halt := rfl
@[simp] theorem State.setFlag_err (s : State) (flag : Bool) : (s.setFlag flag).err = s.err := rfl
@[simp] theorem State.setFlag_cfg (s : State) (flag : Bool) : (s.setFlag flag).cfg = s.cfg := rfl
@[simp] theorem State.setFlag_draws (s : State) (flag : Bool) : (s.setFlag flag).draws = s.draws := rfl
@[simp] theorem State.setFlag_schedule (s : State) (flag : Bool) : (s.setFlag flag).schedule = s.schedule := rfl
@[simp] theorem State.setFlag_host (s : State) (flag : Bool) : (s.setFlag flag).host = s.host := rfl
@[simp] theorem State.setFlag_turns (s : State) (flag : Bool) : (s.setFlag flag).turns = s.turns := rfl

/-! ### setRegFlag -/

@[simp] theorem State.setRegFlag_i (s : State) (x : Reg) (b : Byte) (flag : Bool) : (s.setRegFlag x b flag).i = s.i := rfl
@[simp] theorem State.setRegFlag_pc (s : State) (x : Reg) (b : Byte) (flag : Bool) : (s.setRegFlag x b flag).pc = s.pc := rfl
@[simp] theorem State.setRegFlag_sp (s : State) (x : Reg) (b : Byte) (flag : Bool) : (s.setRegFlag x b flag).sp = s.sp := rfl
@[simp] theorem State.setRegFlag_stack (s : State) (x : Reg) (b : Byte) (flag : Bool) : (s.setRegFlag x b flag).stack = s.stack := rfl
@[simp] theorem State.setRegFlag_dt (s : State) (x : Reg) (b : Byte) (flag : Bool) : (s.setRegFlag x b flag).dt = s.dt := rfl
@[simp] theorem State.setRegFlag_st (s : State) (x : Reg) (b : Byte) (flag : Bool) : (s.setRegFlag x b flag).st = s.st := rfl
@[simp] theorem State.setRegFlag_key (s : State) (x : Reg) (b : Byte) (flag : Bool) : (s.setRegFlag x b flag).key = s.key := rfl
@[simp] theorem State.setRegFlag_fb (s : State) (x : Reg) (b : Byte) (flag : Bool) : (s.setRegFlag x b flag).fb = s.fb := rfl
@[simp] theorem State.setRegFlag_mem (s : State) (x : Reg) (b : Byte) (flag : Bool) : (s.setRegFlag x b flag).mem = s.mem := rfl
@[simp] theorem State.setRegFlag_readByte (s : State) (x : Reg) (b : Byte) (flag : Bool) (a : Nat) : (s.setRegFlag x b flag).readByte a = s.readByte a := rfl
@[simp] theorem State.setRegFlag_wait (s : State) (x : Reg) (b : Byte) (flag : Bool) : (s.setRegFlag x b flag).wait = s.wait := rfl
@[simp] theorem State.setRegFlag_wreg (s : State) (x : Reg) (b : Byte) (flag : Bool) : (s.setRegFlag x b flag).wreg = s.wreg := rfl
@[simp] theorem State.setRegFlag_halt (s : State) (x : Reg) (b : Byte) (flag : Bool) : (s.setRegFlag x b flag).halt = s.halt := rfl
@[simp] theorem State.setRegFlag_err (s : State) (x : Reg) (b : Byte) (flag : Bool) : (s.setRegFlag x b flag).err = s.err := rfl
@[simp] theorem State.setRegFlag_cfg (s : State) (x : Reg) (b : Byte) (flag : Bool) : (s.setRegFlag x b flag).cfg = s.cfg := rfl
@[simp] theorem State.setRegFlag_draws (s : State) (x : Reg) (b : Byte) (flag : Bool) : (s.setRegFlag x b flag).draws = s.draws := rfl
@[simp] theorem State.setRegFlag_schedule (s : State) (x : Reg) (b : Byte) (flag : Bool) : (s.setRegFlag x b flag).schedule = s.schedule := rfl
@[simp] theorem State.setRegFlag_host (s : State) (x : Reg) (b : Byte) (flag : Bool) : (s.setRegFlag x b flag).host = s.host := rfl
@[simp] theorem State.setRegFlag_turns (s : State) (x : Reg) (b : Byte) (flag : Bool) : (s.setRegFlag x b flag).turns = s.turns := rfl

/-! ### setIndex -/

@[simp] theorem State.setIndex_v (s : State) (w : Word) : (s.setIndex w).v = s.v := rfl
@[simp] theorem State.setIndex_i (s : State) (w : Word) : (s.setIndex w).i = w := rfl
@[simp] theorem State.setIndex_pc (s : State) (w : Word) : (s.setIndex w).pc = s.pc := rfl
@[simp] theorem State.setIndex_sp (s : State) (w : Word) : (s.setIndex w).sp = s.sp := rfl
@[simp] theorem State.setIndex_stack (s : State) (w : Word) : (s.setIndex w).stack = s.stack := rfl
@[simp] theorem State.setIndex_dt (s : State) (w : Word) : (s.setIndex w).dt = s.dt := rfl
@[simp] theorem State.setIndex_st (s : State) (w : Word) : (s.setIndex w).st = s.st := rfl
@[simp] theorem State.setIndex_key (s : State) (w : Word) : (s.setIndex w).key = s.key := rfl
@[simp] theorem State.setIndex_fb (s : State) (w : Word) : (s.setIndex w).fb = s.fb := rfl
@[simp] theorem State.setIndex_mem (s : State) (w : Word) : (s.setIndex w).mem = s.mem := rfl
@[simp] theorem State.setIndex_readByte (s : State) (w : Word) (a : Nat) : (s.setIndex w).readByte a = s.readByte a := rfl
@[simp] theorem State.setIndex_wait (s : State) (w : Word) : (s.setIndex w).wait = s.wait := rfl
@[simp] theorem State.setIndex_wreg (s : State) (w : Word) : (s.setIndex w).wreg = s.wreg := rfl
@[simp] theorem State.setIndex_halt (s : State) (w : Word) : (s.setIndex w).halt = s.halt := rfl
@[simp] theorem State.setIndex_err (s : State) (w : Word) : (s.setIndex w).err = s.err := rfl
@[simp] theorem State.setIndex_cfg (s : State) (w : Word) : (s.setIndex w).cfg = s.cfg := rfl
@[simp] theorem State.setIndex_draws (s : State) (w : Word) : (s.setIndex w).draws = s.draws := rfl
@[simp] theorem State.setIndex_schedule (s : State) (w : Word) : (s.setIndex w).schedule = s.schedule := rfl
@[simp] theorem State.setIndex_host (s : State) (w : Word) : (s.setIndex w).host = s.host := rfl
@[simp] theorem State.setIndex_turns (s : State) (w : Word) : (s.setIndex w).turns = s.turns := rfl
@[simp] theorem State.setIndex_reg (s : State) (w : Word) (r : Reg) : (s.setIndex w).reg r = s.reg r := rfl

/-! ### setDelay -/

@[simp] theorem State.setDelay_v (s : State) (b : Byte) : (s.setDelay b).v = s.v := rfl
@[simp] theorem State.setDelay_i (s : State) (b : Byte) : (s.setDelay b).i = s.i := rfl
@[simp] theorem State.setDelay_pc (s : State) (b : Byte) : (s.setDelay b).pc = s.pc := rfl
@[simp] theorem State.setDelay_sp (s : State) (b : Byte) : (s.setDelay b).sp = s.sp := rfl
@[simp] theorem State.setDelay_stack (s : State) (b : Byte) : (s.setDelay b).stack = s.stack := rfl
@[simp] theorem State.setDelay_dt (s : State) (b : Byte) : (s.setDelay b).dt = b := rfl
@[simp] theorem State.setDelay_st (s : State) (b : Byte) : (s.setDelay b).st = s.st := rfl
@[simp] theorem State.setDelay_key (s : State) (b : Byte) : (s.setDelay b).key = s.key := rfl
@[simp] theorem State.setDelay_fb (s : State) (b : Byte) : (s.setDelay b).fb = s.fb := rfl
@[simp] theorem State.setDelay_mem (s : State) (b : Byte) : (s.setDelay b).mem = s.mem := rfl
@[simp] theorem State.setDelay_readByte (s : State) (b : Byte) (a : Nat) : (s.setDelay b).readByte a = s.readByte a := rfl
@[simp] theorem State.setDelay_wait (s : State) (b : Byte) : (s.setDelay b).wait = s.wait := rfl
@[simp] theorem State.setDelay_wreg (s : State) (b : Byte) : (s.setDelay b).wreg = s.wreg := rfl
@[simp] theorem State.setDelay_halt (s : State) (b : Byte) : (s.setDelay b).halt = s.halt := rfl
@[simp] theorem State.setDelay_err (s : State) (b : Byte) : (s.setDelay b).err = s.err := rfl
@[simp] theorem State.setDelay_cfg (s : State) (b : Byte) : (s.setDelay b).cfg = s.cfg := rfl
@[simp] theorem State.setDelay_draws (s : State) (b : Byte) : (s.setDelay b).draws = s.draws := rfl
@[simp] theorem State.setDelay_schedule (s : State) (b : Byte) : (s.setDelay b).schedule = s.schedule := rfl
@[simp] theorem State.setDelay_host (s : State) (b : Byte) : (s.setDelay b).host = s.host := rfl
@[simp] theorem State.setDelay_turns (s : State) (b : Byte) : (s.setDelay b).turns = s.turns := rfl
@[simp] theorem State.setDelay_reg (s : State) (b : Byte) (r : Reg) : (s.setDelay b).reg r = s.reg r := rfl

/-! ### setSound -/

@[simp] theorem State.setSound_v (s : State) (b : Byte) : (s.setSound b).v = s.v := rfl
@[simp] theorem State.setSound_i (s : State) (b : Byte) : (s.setSound b).i = s.i := rfl
@[simp] theorem State.setSound_pc (s : State) (b : Byte) : (s.setSound b).pc = s.pc := rfl
@[simp] theorem State.setSound_sp (s : State) (b : Byte) : (s.setSound b).sp = s.sp := rfl
@[simp] theorem State.setSound_stack (s : State) (b : Byte) : (s.setSound b).stack = s.stack := rfl
@[simp] theorem State.setSound_dt (s : State) (b : Byte) : (s.setSound b).dt = s.dt := rfl
@[simp] theorem State.setSound_st (s : State) (b : Byte) : (s.setSound b).st = b := rfl
@[simp] theorem State.setSound_key (s : State) (b : Byte) : (s.setSound b).key = s.key := rfl
@[simp] theorem State.setSound_fb (s : State) (b : Byte) : (s.setSound b).fb = s.fb := rfl
@[simp] theorem State.setSound_mem (s : State) (b : Byte) : (s.setSound b).mem = s.mem := rfl
@[simp] theorem State.setSound_readByte (s : State) (b : Byte) (a : Nat) : (s.setSound b).readByte a = s.readByte a := rfl
@[simp] theorem State.setSound_wait (s : State) (b : Byte) : (s.setSound b).wait = s.wait := rfl
@[simp] theorem State.setSound_wreg (s : State) (b : Byte) : (s.setSound b).wreg = s.wreg := rfl
@[simp] theorem State.setSound_halt (s : State) (b : Byte) : (s.setSound b).halt = s.halt := rfl
@[simp] theorem State.setSound_err (s : State) (b : Byte) : (s.setSound b).err = s.err := rfl
@[simp] theorem State.setSound_cfg (s : State) (b : Byte) : (s.setSound b).cfg = s.cfg := rfl
@[simp] theorem State.setSound_draws (s : State) (b : Byte) : (s.setSound b).draws = s.draws := rfl
@[simp] theorem State.setSound_schedule (s : State) (b : Byte) : (s.setSound b).schedule = s.schedule := rfl
@[simp] theorem State.setSound_host (s : State) (b : Byte) : (s.setSound b).host = s.host := rfl
@[simp] theorem State.setSound_turns (s : State) (b : Byte) : (s.setSound b).turns = s.turns := rfl
@[simp] theorem State.setSound_reg (s : State) (b : Byte) (r : Reg) : (s.setSound b).reg r = s.reg r := rfl

/-! ### setFrame -/

@[simp] theorem State.setFrame_v (s : State) (fb : Framebuffer) : (s.setFrame fb).v = s.v := rfl
@[simp] theorem State.setFrame_i (s : State) (fb : Framebuffer) : (s.setFrame fb).i = s.i := rfl
@[simp] theorem State.setFrame_pc (s : State) (fb : Framebuffer) : (s.setFrame fb).pc = s.pc := rfl
@[simp] theorem State.setFrame_sp (s : State) (fb : Framebuffer) : (s.setFrame fb).sp = s.sp := rfl
@[simp] theorem State.setFrame_stack (s : State) (fb : Framebuffer) : (s.setFrame fb).stack = s.stack := rfl
@[simp] theorem State.setFrame_dt (s : State) (fb : Framebuffer) : (s.setFrame fb).dt = s.dt := rfl
@[simp] theorem State.setFrame_st (s : State) (fb : Framebuffer) : (s.setFrame fb).st = s.st := rfl
@[simp] theorem State.setFrame_key (s : State) (fb : Framebuffer) : (s.setFrame fb).key = s.key := rfl
@[simp] theorem State.setFrame_fb (s : State) (fb : Framebuffer) : (s.setFrame fb).fb = fb := rfl
@[simp] theorem State.setFrame_mem (s : State) (fb : Framebuffer) : (s.setFrame fb).mem = s.mem := rfl
@[simp] theorem State.setFrame_readByte (s : State) (fb : Framebuffer) (a : Nat) : (s.setFrame fb).readByte a = s.readByte a := rfl
@[simp] theorem State.setFrame_wait (s : State) (fb : Framebuffer) : (s.setFrame fb).wait = s.wait := rfl
@[simp] theorem State.setFrame_wreg (s : State) (fb : Framebuffer) : (s.setFrame fb).wreg = s.wreg := rfl
@[simp] theorem State.setFrame_halt (s : State) (fb : Framebuffer) : (s.setFrame fb).halt = s.halt := rfl
@[simp] theorem State.setFrame_err (s : State) (fb : Framebuffer) : (s.setFrame fb).err = s.err := rfl
@[simp] theorem State.setFrame_cfg (s : State) (fb : Framebuffer) : (s.setFrame fb).cfg = s.cfg := rfl
@[simp] theorem State.setFrame_draws (s : State) (fb : Framebuffer) : (s.setFrame fb).draws = s.draws := rfl
@[simp] theorem State.setFrame_schedule (s : State) (fb : Framebuffer) : (s.setFrame fb).schedule = s.schedule := rfl
@[simp] theorem State.setFrame_host (s : State) (fb : Framebuffer) : (s.setFrame fb).host = s.host := rfl
@[simp] theorem State.setFrame_turns (s : State) (fb : Framebuffer) : (s.setFrame fb).turns = s.turns := rfl
@[simp] theorem State.setFrame_reg (s : State) (fb : Framebuffer) (r : Reg) : (s.setFrame fb).reg r = s.reg r := rfl

/-! ### jump -/

@[simp] theorem State.jump_v (s : State) (w : Word) : (s.jump w).v = s.v := rfl
@[simp] theorem State.jump_i (s : State) (w : Word) : (s.jump w).i = s.i := rfl
@[simp] theorem State.jump_pc (s : State) (w : Word) : (s.jump w).pc = w := rfl
@[simp] theorem State.jump_sp (s : State) (w : Word) : (s.jump w).sp = s.sp := rfl
@[simp] theorem State.jump_stack (s : State) (w : Word) : (s.jump w).stack = s.stack := rfl
@[simp] theorem State.jump_dt (s : State) (w : Word) : (s.jump w).dt = s.dt := rfl
@[simp] theorem State.jump_st (s : State) (w : Word) : (s.jump w).st = s.st := rfl
@[simp] theorem State.jump_key (s : State) (w : Word) : (s.jump w).key = s.key := rfl
@[simp] theorem State.jump_fb (s : State) (w : Word) : (s.jump w).fb = s.fb := rfl
@[simp] theorem State.jump_mem (s : State) (w : Word) : (s.jump w).mem = s.mem := rfl
@[simp] theorem State.jump_readByte (s : State) (w : Word) (a : Nat) : (s.jump w).readByte a = s.readByte a := rfl
@[simp] theorem State.jump_wait (s : State) (w : Word) : (s.jump w).wait = s.wait := rfl
@[simp] theorem State.jump_wreg (s : State) (w : Word) : (s.jump w).wreg = s.wreg := rfl
@[simp] theorem State.jump_halt (s : State) (w : Word) : (s.jump w).halt = s.halt := rfl
@[simp] theorem State.jump_err (s : State) (w : Word) : (s.jump w).err = s.err := rfl
@[simp] theorem State.jump_cfg (s : State) (w : Word) : (s.jump w).cfg = s.cfg := rfl
@[simp] theorem State.jump_draws (s : State) (w : Word) : (s.jump w).draws = s.draws := rfl
@[simp] theorem State.jump_schedule (s : State) (w : Word) : (s.jump w).schedule = s.schedule := rfl
@[simp] theorem State.jump_host (s : State) (w : Word) : (s.jump w).host = s.host := rfl
@[simp] theorem State.jump_turns (s : State) (w : Word) : (s.jump w).turns = s.turns := rfl
@[simp] theorem State.jump_reg (s : State) (w : Word) (r : Reg) : (s.jump w).reg r = s.reg r := rfl

/-! ### advance -/

@[simp] theorem State.advance_v (s : State) : (s.advance).v = s.v := rfl
@[simp] theorem State.advance_i (s : State) : (s.advance).i = s.i := rfl
@[simp] theorem State.advance_pc (s : State) : (s.advance).pc = s.pc + 2 := rfl
@[simp] theorem State.advance_sp (s : State) : (s.advance).sp = s.sp := rfl
@[simp] theorem State.advance_stack (s : State) : (s.advance).stack = s.stack := rfl
@[simp] theorem State.advance_dt (s : State) : (s.advance).dt = s.dt := rfl
@[simp] theorem State.advance_st (s : State) : (s.advance).st = s.st := rfl
@[simp] theorem State.advance_key (s : State) : (s.advance).key = s.key := rfl
@[simp] theorem State.advance_fb (s : State) : (s.advance).fb = s.fb := rfl
@[simp] theorem State.advance_mem (s : State) : (s.advance).mem = s.mem := rfl
@[simp] theorem State.advance_readByte (s : State) (a : Nat) : (s.advance).readByte a = s.readByte a := rfl
@[simp] theorem State.advance_wait (s : State) : (s.advance).wait = s.wait := rfl
@[simp] theorem State.advance_wreg (s : State) : (s.advance).wreg = s.wreg := rfl
@[simp] theorem State.advance_halt (s : State) : (s.advance).halt = s.halt := rfl
@[simp] theorem State.advance_err (s : State) : (s.advance).err = s.err := rfl
@[simp] theorem State.advance_cfg (s : State) : (s.advance).cfg = s.cfg := rfl
@[simp] theorem State.advance_draws (s : State) : (s.advance).draws = s.draws := rfl
@[simp] theorem State.advance_schedule (s : State) : (s.advance).schedule = s.schedule := rfl
@[simp] theorem State.advance_host (s : State) : (s.advance).host = s.host := rfl
@[simp] theorem State.advance_turns (s : State) : (s.advance).turns = s.turns := rfl
@[simp] theorem State.advance_reg (s : State) (r : Reg) : (s.advance).reg r = s.reg r := rfl

/-! ### skip -/

@[simp] theorem State.skip_v (s : State) : (s.skip).v = s.v := rfl
@[simp] theorem State.skip_i (s : State) : (s.skip).i = s.i := rfl
@[simp] theorem State.skip_pc (s : State) : (s.skip).pc = s.pc + 2 := rfl
@[simp] theorem State.skip_sp (s : State) : (s.skip).sp = s.sp := rfl
@[simp] theorem State.skip_stack (s : State) : (s.skip).stack = s.stack := rfl
@[simp] theorem State.skip_dt (s : State) : (s.skip).dt = s.dt := rfl
@[simp] theorem State.skip_st (s : State) : (s.skip).st = s.st := rfl
@[simp] theorem State.skip_key (s : State) : (s.skip).key = s.key := rfl
@[simp] theorem State.skip_fb (s : State) : (s.skip).fb = s.fb := rfl
@[simp] theorem State.skip_mem (s : State) : (s.skip).mem = s.mem := rfl
@[simp] theorem State.skip_readByte (s : State) (a : Nat) : (s.skip).readByte a = s.readByte a := rfl
@[simp] theorem State.skip_wait (s : State) : (s.skip).wait = s.wait := rfl
@[simp] theorem State.skip_wreg (s : State) : (s.skip).wreg = s.wreg := rfl
@[simp] theorem State.skip_halt (s : State) : (s.skip).halt = s.halt := rfl
@[simp] theorem State.skip_err (s : State) : (s.skip).err = s.err := rfl
@[simp] theorem State.skip_cfg (s : State) : (s.skip).cfg = s.cfg := rfl
@[simp] theorem State.skip_draws (s : State) : (s.skip).draws = s.draws := rfl
@[simp] theorem State.skip_schedule (s : State) : (s.skip).schedule = s.schedule := rfl
@[simp] theorem State.skip_host (s : State) : (s.skip).host = s.host := rfl
@[simp] theorem State.skip_turns (s : State) : (s.skip).turns = s.turns := rfl
@[simp] theorem State.skip_reg (s : State) (r : Reg) : (s.skip).reg r = s.reg r := rfl

/-! ### suspend -/

@[simp] theorem State.suspend_v (s : State) (x : Reg) : (s.suspend x).v = s.v := rfl
@[simp] theorem State.suspend_i (s : State) (x : Reg) : (s.suspend x).i = s.i := rfl
@[simp] theorem State.suspend_pc (s : State) (x : Reg) : (s.suspend x).pc = s.pc - 2 := rfl
@[simp] theorem State.suspend_sp (s : State) (x : Reg) : (s.suspend x).sp = s.sp := rfl
@[simp] theorem State.suspend_stack (s : State) (x : Reg) : (s.suspend x).stack = s.stack := rfl
@[simp] theorem State.suspend_dt (s : State) (x : Reg) : (s.suspend x).dt = s.dt := rfl
@[simp] theorem State.suspend_st (s : State) (x : Reg) : (s.suspend x).st = s.st := rfl
@[simp] theorem State.suspend_key (s : State) (x : Reg) : (s.suspend x).key = s.key := rfl
@[simp] theorem State.suspend_fb (s : State) (x : Reg) : (s.suspend x).fb = s.fb := rfl
@[simp] theorem State.suspend_mem (s : State) (x : Reg) : (s.suspend x).mem = s.mem := rfl
@[simp] theorem State.suspend_readByte (s : State) (x : Reg) (a : Nat) : (s.suspend x).readByte a = s.readByte a := rfl
@[simp] theorem State.suspend_wait (s : State) (x : Reg) : (s.suspend x).wait = true := rfl
@[simp] theorem State.suspend_wreg (s : State) (x : Reg) : (s.suspend x).wreg = x := rfl
@[simp] theorem State.suspend_halt (s : State) (x : Reg) : (s.suspend x).halt = s.halt := rfl
@[simp] theorem State.suspend_err (s : State) (x : Reg) : (s.suspend x).err = s.err := rfl
@[simp] theorem State.suspend_cfg (s : State) (x : Reg) : (s.suspend x).cfg = s.cfg := rfl
@[simp] theorem State.suspend_draws (s : State) (x : Reg) : (s.suspend x).draws = s.draws := rfl
@[simp] theorem State.suspend_schedule (s : State) (x : Reg) : (s.suspend x).schedule = s.schedule := rfl
@[simp] theorem State.suspend_host (s : State) (x : Reg) : (s.suspend x).host = s.host := rfl
@[simp] theorem State.suspend_turns (s : State) (x : Reg) : (s.suspend x).turns = s.turns := rfl
@[simp] theorem State.suspend_reg (s : State) (x : Reg) (r : Reg) : (s.suspend x).reg r = s.reg r := rfl

/-! ### countDraw -/

@[simp] theorem State.countDraw_v (s : State) : (s.countDraw).v = s.v := rfl
@[simp] theorem State.countDraw_i (s : State) : (s.countDraw).i = s.i := rfl
@[simp] theorem State.countDraw_pc (s : State) : (s.countDraw).pc = s.pc := rfl
@[simp] theorem State.countDraw_sp (s : State) : (s.countDraw).sp = s.sp := rfl
@[simp] theorem State.countDraw_stack (s : State) : (s.countDraw).stack = s.stack := rfl
@[simp] theorem State.countDraw_dt (s : State) : (s.countDraw).dt = s.dt := rfl
@[simp] theorem State.countDraw_st (s : State) : (s.countDraw).st = s.st := rfl
@[simp] theorem State.countDraw_key (s : State) : (s.countDraw).key = s.key := rfl
@[simp] theorem State.countDraw_fb (s : State) : (s.countDraw).fb = s.fb := rfl
@[simp] theorem State.countDraw_mem (s : State) : (s.countDraw).mem = s.mem := rfl
@[simp] theorem State.countDraw_readByte (s : State) (a : Nat) : (s.countDraw).readByte a = s.readByte a := rfl
@[simp] theorem State.countDraw_wait (s : State) : (s.countDraw).wait = s.wait := rfl
@[simp] theorem State.countDraw_wreg (s : State) : (s.countDraw).wreg = s.wreg := rfl
@[simp] theorem State.countDraw_halt (s : State) : (s.countDraw).halt = s.halt := rfl
@[simp] theorem State.countDraw_err (s : State) : (s.countDraw).err = s.err := rfl
@[simp] theorem State.countDraw_cfg (s : State) : (s.countDraw).cfg = s.cfg := rfl
@[simp] theorem State.countDraw_draws (s : State) : (s.countDraw).draws = s.draws + 1 := rfl
@[simp] theorem State.countDraw_schedule (s : State) : (s.countDraw).schedule = s.schedule := rfl
@[simp] theorem State.countDraw_host (s : State) : (s.countDraw).host = s.host := rfl
@[simp] theorem State.countDraw_turns (s : State) : (s.countDraw).turns = s.turns := rfl
@[simp] theorem State.countDraw_reg (s : State) (r : Reg) : (s.countDraw).reg r = s.reg r := rfl

/-! ### halted -/

@[simp] theorem State.halted_v (s : State) (f : Fault) (op pc0 : Word) : (s.halted f op pc0).v = s.v := rfl
@[simp] theorem State.halted_i (s : State) (f : Fault) (op pc0 : Word) : (s.halted f op pc0).i = s.i := rfl
@[simp] theorem State.halted_pc (s : State) (f : Fault) (op pc0 : Word) : (s.halted f op pc0).pc = pc0 := rfl
@[simp] theorem State.halted_sp (s : State) (f : Fault) (op pc0 : Word) : (s.halted f op pc0).sp = s.sp := rfl
@[simp] theorem State.halted_stack (s : State) (f : Fault) (op pc0 : Word) : (s.halted f op pc0).stack = s.stack := rfl
@[simp] theorem State.halted_dt (s : State) (f : Fault) (op pc0 : Word) : (s.halted f op pc0).dt = s.dt := rfl
@[simp] theorem State.halted_st (s : State) (f : Fault) (op pc0 : Word) : (s.halted f op pc0).st = s.st := rfl
@[simp] theorem State.halted_key (s : State) (f : Fault) (op pc0 : Word) : (s.halted f op pc0).key = s.key := rfl
@[simp] theorem State.halted_fb (s : State) (f : Fault) (op pc0 : Word) : (s.halted f op pc0).fb = s.fb := rfl
@[simp] theorem State.halted_mem (s : State) (f : Fault) (op pc0 : Word) : (s.halted f op pc0).mem = s.mem := rfl
@[simp] theorem State.halted_readByte (s : State) (f : Fault) (op pc0 : Word) (a : Nat) : (s.halted f op pc0).readByte a = s.readByte a := rfl
@[simp] theorem State.halted_wait (s : State) (f : Fault) (op pc0 : Word) : (s.halted f op pc0).wait = s.wait := rfl
@[simp] theorem State.halted_wreg (s : State) (f : Fault) (op pc0 : Word) : (s.halted f op pc0).wreg = s.wreg := rfl
@[simp] theorem State.halted_halt (s : State) (f : Fault) (op pc0 : Word) : (s.halted f op pc0).halt = true := rfl
@[simp] theorem State.halted_err (s : State) (f : Fault) (op pc0 : Word) : (s.halted f op pc0).err = { code := some f, opcode := op, pc := pc0 } := rfl
@[simp] theorem State.halted_cfg (s : State) (f : Fault) (op pc0 : Word) : (s.halted f op pc0).cfg = s.cfg := rfl
@[simp] theorem State.halted_draws (s : State) (f : Fault) (op pc0 : Word) : (s.halted f op pc0).draws = s.draws := rfl
@[simp] theorem State.halted_schedule (s : State) (f : Fault) (op pc0 : Word) : (s.halted f op pc0).schedule = s.schedule := rfl
@[simp] theorem State.halted_host (s : State) (f : Fault) (op pc0 : Word) : (s.halted f op pc0).host = s.host := rfl
@[simp] theorem State.halted_turns (s : State) (f : Fault) (op pc0 : Word) : (s.halted f op pc0).turns = s.turns := rfl
@[simp] theorem State.halted_reg (s : State) (f : Fault) (op pc0 : Word) (r : Reg) : (s.halted f op pc0).reg r = s.reg r := rfl

/-! ### skipIf -/

@[simp] theorem State.skipIf_v (s : State) (c : Bool) : (s.skipIf c).v = s.v := by cases c <;> rfl
@[simp] theorem State.skipIf_i (s : State) (c : Bool) : (s.skipIf c).i = s.i := by cases c <;> rfl
@[simp] theorem State.skipIf_pc (s : State) (c : Bool) :
    (s.skipIf c).pc = if c then s.pc + 2 else s.pc := by
  cases c <;> rfl
@[simp] theorem State.skipIf_sp (s : State) (c : Bool) : (s.skipIf c).sp = s.sp := by cases c <;> rfl
@[simp] theorem State.skipIf_stack (s : State) (c : Bool) : (s.skipIf c).stack = s.stack := by cases c <;> rfl
@[simp] theorem State.skipIf_dt (s : State) (c : Bool) : (s.skipIf c).dt = s.dt := by cases c <;> rfl
@[simp] theorem State.skipIf_st (s : State) (c : Bool) : (s.skipIf c).st = s.st := by cases c <;> rfl
@[simp] theorem State.skipIf_key (s : State) (c : Bool) : (s.skipIf c).key = s.key := by cases c <;> rfl
@[simp] theorem State.skipIf_fb (s : State) (c : Bool) : (s.skipIf c).fb = s.fb := by cases c <;> rfl
@[simp] theorem State.skipIf_mem (s : State) (c : Bool) : (s.skipIf c).mem = s.mem := by cases c <;> rfl
@[simp] theorem State.skipIf_readByte (s : State) (c : Bool) (a : Nat) : (s.skipIf c).readByte a = s.readByte a := by cases c <;> rfl
@[simp] theorem State.skipIf_wait (s : State) (c : Bool) : (s.skipIf c).wait = s.wait := by cases c <;> rfl
@[simp] theorem State.skipIf_wreg (s : State) (c : Bool) : (s.skipIf c).wreg = s.wreg := by cases c <;> rfl
@[simp] theorem State.skipIf_halt (s : State) (c : Bool) : (s.skipIf c).halt = s.halt := by cases c <;> rfl
@[simp] theorem State.skipIf_err (s : State) (c : Bool) : (s.skipIf c).err = s.err := by cases c <;> rfl
@[simp] theorem State.skipIf_cfg (s : State) (c : Bool) : (s.skipIf c).cfg = s.cfg := by cases c <;> rfl
@[simp] theorem State.skipIf_draws (s : State) (c : Bool) : (s.skipIf c).draws = s.draws := by cases c <;> rfl
@[simp] theorem State.skipIf_schedule (s : State) (c : Bool) : (s.skipIf c).schedule = s.schedule := by cases c <;> rfl
@[simp] theorem State.skipIf_host (s : State) (c : Bool) : (s.skipIf c).host = s.host := by cases c <;> rfl
@[simp] theorem State.skipIf_turns (s : State) (c : Bool) : (s.skipIf c).turns = s.turns := by cases c <;> rfl
@[simp] theorem State.skipIf_reg (s : State) (c : Bool) (r : Reg) : (s.skipIf c).reg r = s.reg r := by
  cases c <;> rfl

/-! ### openTurn -/

@[simp] theorem State.openTurn_v (s : State) : s.openTurn.v = s.v := rfl
@[simp] theorem State.openTurn_i (s : State) : s.openTurn.i = s.i := rfl
@[simp] theorem State.openTurn_pc (s : State) : s.openTurn.pc = s.pc := rfl
@[simp] theorem State.openTurn_sp (s : State) : s.openTurn.sp = s.sp := rfl
@[simp] theorem State.openTurn_stack (s : State) : s.openTurn.stack = s.stack := rfl
@[simp] theorem State.openTurn_dt (s : State) : s.openTurn.dt = s.dt := rfl
@[simp] theorem State.openTurn_st (s : State) : s.openTurn.st = s.st := rfl
@[simp] theorem State.openTurn_key (s : State) : s.openTurn.key = s.key := rfl
@[simp] theorem State.openTurn_fb (s : State) : s.openTurn.fb = s.fb := rfl
@[simp] theorem State.openTurn_mem (s : State) : s.openTurn.mem = s.mem := rfl
@[simp] theorem State.openTurn_wait (s : State) : s.openTurn.wait = s.wait := rfl
@[simp] theorem State.openTurn_wreg (s : State) : s.openTurn.wreg = s.wreg := rfl
@[simp] theorem State.openTurn_halt (s : State) : s.openTurn.halt = s.halt := rfl
@[simp] theorem State.openTurn_err (s : State) : s.openTurn.err = s.err := rfl
@[simp] theorem State.openTurn_cfg (s : State) : s.openTurn.cfg = s.cfg := rfl
@[simp] theorem State.openTurn_draws (s : State) : s.openTurn.draws = s.draws := rfl
@[simp] theorem State.openTurn_host (s : State) : s.openTurn.host = s.host := rfl
@[simp] theorem State.openTurn_schedule (s : State) : s.openTurn.schedule = s.placed := rfl
@[simp] theorem State.openTurn_turns (s : State) : s.openTurn.turns = s.turns + 1 := rfl
@[simp] theorem State.openTurn_readByte (s : State) (a : Nat) : s.openTurn.readByte a = s.readByte a := rfl
@[simp] theorem State.openTurn_reg (s : State) (r : Reg) : s.openTurn.reg r = s.reg r := rfl

/-! ### Registers -/

@[simp] theorem flagByte_true : flagByte true = 1 := rfl
@[simp] theorem flagByte_false : flagByte false = 0 := rfl

/-- A register after a write: the value written, or what it held. -/
theorem State.reg_setReg (s : State) (x r : Reg) (b : Byte) :
    (s.setReg x b).reg r = if r = x then b else s.reg r := by
  simp only [State.reg, State.setReg, Vector.getElem_set, Fin.ext_iff, eq_comm]

@[simp] theorem State.reg_setReg_same (s : State) (x : Reg) (b : Byte) : (s.setReg x b).reg x = b := by
  simp [State.reg_setReg]

/-- A register after a flag is written to VF. -/
theorem State.reg_setFlag (s : State) (r : Reg) (flag : Bool) :
    (s.setFlag flag).reg r = if r = VF then flagByte flag else s.reg r :=
  State.reg_setReg s VF r _

/-- A register after a result and then a flag are written: the flag wins where both go to VF. -/
theorem State.reg_setRegFlag (s : State) (x r : Reg) (b : Byte) (flag : Bool) :
    (s.setRegFlag x b flag).reg r
      = if r = VF then flagByte flag else if r = x then b else s.reg r := by
  rw [State.setRegFlag, State.reg_setFlag, State.reg_setReg]

/-- Two states with the same registers have the same register file. -/
theorem State.v_ext {s t : State} (h : ∀ r, s.reg r = t.reg r) : s.v = t.v := by
  apply Vector.ext
  intro k hk
  exact h ⟨k, hk⟩

/-- An instruction's own address, seen after the advance of its cycle. -/
@[simp] theorem State.instrAddr_advance (s : State) : s.advance.instrAddr = s.pc := by
  simp [State.instrAddr]

end Sys2Proof.Machine
end

