-- ==== Sys2Proof/Laws/Memory.lean ====
section
/-! SUPPORT. The laws of memory (spec/20_memory.md R52, R57): what a byte reads after a write, the
canonical form kept by every operation, and what the block accesses answer. -/

namespace Sys2Proof.Machine

/-! ## One byte -/

/-- In a memory listed from `lo` on, an address below `lo` reads its reset contents. -/
theorem Memory.read_below {font : Vector Byte 80} {m : Memory} {lo a : Nat}
    (h : Memory.wfFrom font lo m = true) (ha : a < lo) : Memory.read font m a = resetByte font a := by
  induction m generalizing lo with
  | nil => rfl
  | cons c rest ih =>
    obtain ⟨a', b⟩ := c
    simp only [Memory.wfFrom, Bool.and_eq_true, decide_eq_true_eq] at h
    rw [Memory.read, if_neg (by omega)]
    exact ih h.2 (by omega)

/-- A listing from `lo` on is a listing from any lower bound on. -/
theorem Memory.wfFrom_mono {font : Vector Byte 80} {m : Memory} {lo lo' : Nat}
    (h : Memory.wfFrom font lo m = true) (hle : lo' ≤ lo) : Memory.wfFrom font lo' m = true := by
  cases m with
  | nil => rfl
  | cons c rest =>
    obtain ⟨a', b⟩ := c
    simp only [Memory.wfFrom, Bool.and_eq_true, decide_eq_true_eq] at h ⊢
    exact ⟨⟨⟨by omega, h.1.1.2⟩, h.1.2⟩, h.2⟩

/-- A write keeps the canonical form. -/
theorem Memory.wfFrom_write {font : Vector Byte 80} {m : Memory} {lo a : Nat} {b : Byte}
    (h : Memory.wfFrom font lo m = true) (hlo : lo ≤ a) (ha : a < memSize) :
    Memory.wfFrom font lo (Memory.write font m a b) = true := by
  induction m generalizing lo with
  | nil =>
    rw [Memory.write]
    split
    · rfl
    · simp_all [Memory.wfFrom]
  | cons c rest ih =>
    obtain ⟨a', b'⟩ := c
    simp only [Memory.wfFrom, Bool.and_eq_true, decide_eq_true_eq] at h
    rw [Memory.write]
    split_ifs with h1 h2 h3 h4
    · simp only [Memory.wfFrom, Bool.and_eq_true, decide_eq_true_eq]
      exact ⟨h.1, ih h.2 (by omega)⟩
    · exact Memory.wfFrom_mono h.2 (by omega)
    · simp only [Memory.wfFrom, Bool.and_eq_true, decide_eq_true_eq]
      exact ⟨⟨⟨hlo, ha⟩, h3⟩, h2 ▸ h.2⟩
    · simp only [Memory.wfFrom, Bool.and_eq_true, decide_eq_true_eq]
      exact h
    · simp only [Memory.wfFrom, Bool.and_eq_true, decide_eq_true_eq]
      exact ⟨⟨⟨hlo, ha⟩, h4⟩, ⟨⟨by omega, h.1.1.2⟩, h.1.2⟩, h.2⟩

/-- A write keeps the canonical form of the whole memory. -/
theorem Memory.wf_write {font : Vector Byte 80} {m : Memory} {a : Nat} {b : Byte}
    (h : Memory.wf font m = true) (ha : a < memSize) :
    Memory.wf font (Memory.write font m a b) = true :=
  Memory.wfFrom_write h (Nat.zero_le a) ha

/-- A byte after a write, in a memory of canonical form: the byte written, or what was there. -/
theorem Memory.read_write {font : Vector Byte 80} {m : Memory} {lo a c : Nat} {b : Byte}
    (h : Memory.wfFrom font lo m = true) :
    Memory.read font (Memory.write font m a b) c = if c = a then b else Memory.read font m c := by
  induction m generalizing lo with
  | nil =>
    rw [Memory.write]
    by_cases hb : b = resetByte font a
    · rw [if_pos hb]
      by_cases hc : c = a <;> simp [Memory.read, hc, hb]
    · rw [if_neg hb]
      simp only [Memory.read, eq_comm]
  | cons cell rest ih =>
    obtain ⟨a', b'⟩ := cell
    simp only [Memory.wfFrom, Bool.and_eq_true, decide_eq_true_eq] at h
    have hbelow : ∀ d, d < a' + 1 → Memory.read font rest d = resetByte font d :=
      fun d hd => Memory.read_below h.2 hd
    have hrest := ih h.2
    rw [Memory.write]
    by_cases h1 : a' < a
    · rw [if_pos h1]
      simp only [Memory.read, hrest]
      grind
    · rw [if_neg h1]
      by_cases h2 : a' = a
      · have ha := hbelow a (by omega)
        rw [if_pos h2]
        by_cases hb : b = resetByte font a
        · rw [if_pos hb, Memory.read]
          grind
        · rw [if_neg hb]
          simp only [Memory.read]
          grind
      · have ha := hbelow a (by omega)
        rw [if_neg h2]
        by_cases hb : b = resetByte font a
        · rw [if_pos hb]
          simp only [Memory.read]
          grind
        · rw [if_neg hb]
          simp only [Memory.read]
          grind

/-! ## Many bytes -/

/-- Writing a list of bytes inside the space keeps the canonical form. -/
theorem Memory.wf_writeAll {font : Vector Byte 80} {m : Memory} {a : Nat} {bytes : List Byte}
    (h : Memory.wf font m = true) (ha : bytes = [] ∨ a + bytes.length ≤ memSize) :
    Memory.wf font (Memory.writeAll font m a bytes) = true := by
  induction bytes generalizing m a with
  | nil => exact h
  | cons b rest ih =>
    simp only [reduceCtorEq, List.length_cons, false_or] at ha
    exact ih (Memory.wf_write h (by omega)) (by right; omega)

/-- A byte after a list of bytes is written from `a` on. -/
theorem Memory.read_writeAll {font : Vector Byte 80} {m : Memory} {a c : Nat} {bytes : List Byte}
    (h : Memory.wf font m = true) (ha : bytes = [] ∨ a + bytes.length ≤ memSize) :
    Memory.read font (Memory.writeAll font m a bytes) c
      = if a ≤ c then (bytes[c - a]?).getD (Memory.read font m c) else Memory.read font m c := by
  induction bytes generalizing m a with
  | nil => simp [Memory.writeAll]
  | cons b rest ih =>
    simp only [reduceCtorEq, List.length_cons, false_or] at ha
    rw [Memory.writeAll, ih (Memory.wf_write h (by omega)) (by right; omega), Memory.read_write h]
    rcases Nat.lt_trichotomy c a with hlt | heq | hgt
    · simp [show ¬ a + 1 ≤ c by omega, show ¬ a ≤ c by omega, show c ≠ a by omega]
    · simp [heq]
    · have : c - a = (c - (a + 1)) + 1 := by omega
      simp [show a + 1 ≤ c by omega, show a ≤ c by omega, show c ≠ a by omega, this]

/-! ## The checked block accesses -/

theorem inRange_iff {base len : Nat} :
    inRange base len = true ↔ len = 0 ∨ base + len ≤ memSize := by
  simp [inRange]

/-- A block read answers exactly when its range is in the space, with the bytes that lie there. -/
theorem State.readBlock_eq_some {s : State} {base len : Nat} {bytes : List Byte} :
    s.readBlock base len = some bytes ↔
      (len = 0 ∨ base + len ≤ memSize) ∧ bytes = s.bytesFrom base len := by
  rw [← inRange_iff]
  by_cases h : inRange base len = true <;> simp [State.readBlock, h, eq_comm]

/-- A block read answers nothing exactly when a byte of its range lies above 0xFFF. -/
theorem State.readBlock_eq_none {s : State} {base len : Nat} :
    s.readBlock base len = none ↔ ¬ (len = 0 ∨ base + len ≤ memSize) := by
  rw [← inRange_iff]
  by_cases h : inRange base len = true <;> simp [State.readBlock, h]

/-- A block write answers exactly when its range is in the space, with memory changed only. -/
theorem State.writeBlock_eq_some {s t : State} {base : Nat} {bytes : List Byte} :
    s.writeBlock base bytes = some t ↔
      (bytes.length = 0 ∨ base + bytes.length ≤ memSize) ∧
        t = { s with mem := Memory.writeAll s.cfg.font s.mem base bytes } := by
  rw [← inRange_iff]
  by_cases h : inRange base bytes.length = true <;> simp [State.writeBlock, h, eq_comm]

/-- A block write answers nothing exactly when a byte of its range lies above 0xFFF. -/
theorem State.writeBlock_eq_none {s : State} {base : Nat} {bytes : List Byte} :
    s.writeBlock base bytes = none ↔ ¬ (bytes.length = 0 ∨ base + bytes.length ≤ memSize) := by
  rw [← inRange_iff]
  by_cases h : inRange base bytes.length = true <;> simp [State.writeBlock, h]

@[simp] theorem State.length_bytesFrom (s : State) (base len : Nat) :
    (s.bytesFrom base len).length = len := by
  simp [State.bytesFrom]

@[simp] theorem State.getElem_bytesFrom (s : State) (base len k : Nat)
    (h : k < (s.bytesFrom base len).length) : (s.bytesFrom base len)[k] = s.readByte (base + k) := by
  simp [State.bytesFrom]

/-- The bytes of `LD [I],Vx`: byte `k` is `V[k]`. -/
theorem getElem?_regsUpTo (s : State) (x : Reg) (k : Nat) :
    (regsUpTo s x)[k]? = if h : k ≤ x.val then some (s.reg ⟨k, by omega⟩) else none := by
  have hx := x.isLt
  simp only [regsUpTo, State.reg, List.getElem?_take]
  by_cases h : k ≤ x.val
  · simp [show k < x.val + 1 by omega, show k < 16 by omega, h]
  · simp [show ¬ k < x.val + 1 by omega, h]

@[simp] theorem length_regsUpTo (s : State) (x : Reg) : (regsUpTo s x).length = x.val + 1 := by
  have hx := x.isLt
  simp [regsUpTo]

@[simp] theorem length_bcdDigits (b : Byte) : (bcdDigits b).length = 3 := rfl

/-- Loading registers changes registers only. -/
theorem loadRegs_eq (s : State) (lo : Nat) (bytes : List Byte) :
    loadRegs s lo bytes = { s with v := (loadRegs s lo bytes).v } := by
  induction bytes generalizing s lo with
  | nil => rfl
  | cons b rest ih =>
    rw [loadRegs, ih]
    split <;> rfl

/-- A register after loading registers from `lo` on. -/
theorem reg_loadRegs (s : State) (lo : Nat) (bytes : List Byte) (r : Reg) :
    (loadRegs s lo bytes).reg r
      = if lo ≤ r.val then (bytes[r.val - lo]?).getD (s.reg r) else s.reg r := by
  induction bytes generalizing s lo with
  | nil => simp [loadRegs]
  | cons b rest ih =>
    have hr := r.isLt
    rw [loadRegs, ih]
    rcases Nat.lt_trichotomy r.val lo with hlt | heq | hgt
    · rw [if_neg (by omega), if_neg (by omega)]
      split
      · rw [State.reg_setReg, if_neg (by intro h; simp [h] at hlt)]
      · rfl
    · have hlo : lo < 16 := by omega
      rw [if_neg (by omega), if_pos (by omega), dif_pos hlo, State.reg_setReg,
        if_pos (Fin.ext heq)]
      simp [heq]
    · have hk : r.val - lo = (r.val - (lo + 1)) + 1 := by omega
      rw [if_pos (by omega), if_pos (by omega), hk, List.getElem?_cons_succ]
      congr 1
      split
      · rw [State.reg_setReg, if_neg (by intro h; simp [h] at hgt)]
      · rfl

/-! ## The stack -/

/-- A push answers exactly when SP < 16. -/
theorem State.push_eq_some {s t : State} {w : Word} :
    s.push w = some t ↔ ∃ h : s.sp.val < 16,
      t = { s with stack := s.stack.set s.sp.val w, sp := ⟨s.sp.val + 1, by omega⟩ } := by
  by_cases h : s.sp.val < 16 <;> simp [State.push, h, eq_comm]

/-- A push answers nothing exactly when SP = 16. -/
theorem State.push_eq_none {s : State} {w : Word} : s.push w = none ↔ s.sp.val = 16 := by
  have := s.sp.isLt
  by_cases h : s.sp.val < 16
  · simp [State.push, h]
    omega
  · simp [State.push, h]
    omega

/-- A pop answers exactly when SP is not 0. -/
theorem State.pop_eq_some {s t : State} {w : Word} :
    s.pop = some (w, t) ↔ ∃ h : s.sp.val - 1 < 16, s.sp.val ≠ 0 ∧ w = s.stack[s.sp.val - 1] ∧
      t = { s with sp := ⟨s.sp.val - 1, by omega⟩ } := by
  have := s.sp.isLt
  by_cases h : s.sp.val = 0
  · simp [State.pop, h]
  · have hlt : s.sp.val - 1 < 16 := by omega
    simp [State.pop, h, hlt, eq_comm]

/-- A pop answers nothing exactly when SP = 0. -/
theorem State.pop_eq_none {s : State} : s.pop = none ↔ s.sp.val = 0 := by
  by_cases h : s.sp.val = 0 <;> simp [State.pop, h]

end Sys2Proof.Machine
end

