-- ==== Sys2Proof/Laws/Cycle.lean ====
section
/-! SUPPORT. The instruction cycle taken apart (spec/30_encoding.md R70): one equation per case, and one
inversion lemma for it; the machine's step, the host's plan and runs (60_exceptions.md R171, R174). -/

namespace Sys2Proof.Machine

theorem running_iff {s : State} : s.running = true ↔ s.halt = false ∧ s.wait = false := by
  simp [State.running]

/-- A halted or suspended block ignores `Step`. -/
theorem cycle_idle {s : State} (h : s.running = false) : cycle s = .next s := by
  rw [cycle, if_pos]
  revert h
  cases hh : s.halt <;> cases hw : s.wait <;> simp [State.running, hh, hw]

theorem fetchWord_eq_some {s : State} {op : Word} :
    s.fetchWord = some op ↔
      s.pc.toNat + 1 ≤ 0xFFF ∧
        op = wordOfBytes (s.readByte s.pc.toNat) (s.readByte (s.pc.toNat + 1)) := by
  by_cases h : s.pc.toNat + 1 ≤ 0xFFF <;> simp [State.fetchWord, h, eq_comm]

theorem fetchWord_eq_none {s : State} : s.fetchWord = none ↔ 0xFFF < s.pc.toNat + 1 := by
  by_cases h : s.pc.toNat + 1 ≤ 0xFFF <;> simp [State.fetchWord, h] <;> omega

/-- The PC is no fetchable address. -/
theorem cycle_noFetch {s : State} (hr : s.running = true) (hf : s.fetchWord = none) :
    cycle s = .next (s.halted .outOfBoundsFetch 0 s.pc) := by
  obtain ⟨hh, hw⟩ := running_iff.1 hr
  simp [cycle, hh, hw, hf, raise]

/-- The word is no instruction; the advance is undone. -/
theorem cycle_unknown {s : State} {op : Word} {e : DecodeError} (hr : s.running = true)
    (hf : s.fetchWord = some op) (hd : decode op = .error e) :
    cycle s = .next (s.halted .unknownOpcode op s.pc) := by
  obtain ⟨hh, hw⟩ := running_iff.1 hr
  simp [cycle, hh, hw, hf, hd, raise, State.halted, State.advance, State.jump]

/-- The word is an instruction: it is executed with PC advanced. -/
theorem cycle_exec {s : State} {op : Word} {i : Instr} (hr : s.running = true)
    (hf : s.fetchWord = some op) (hd : decode op = .ok i) : cycle s = exec i s.advance := by
  obtain ⟨hh, hw⟩ := running_iff.1 hr
  simp [cycle, hh, hw, hf, hd]

/-- All that a cycle can do. -/
theorem cycle_cases {s t : State} (h : cycle s = .next t) :
    (s.running = false ∧ t = s) ∨
    (s.running = true ∧ s.fetchWord = none ∧ t = s.halted .outOfBoundsFetch 0 s.pc) ∨
    (∃ op e, s.running = true ∧ s.fetchWord = some op ∧ decode op = .error e ∧
      t = s.halted .unknownOpcode op s.pc) ∨
    (∃ op i, s.running = true ∧ s.fetchWord = some op ∧ decode op = .ok i ∧
      exec i s.advance = .next t) := by
  rcases hr : s.running with _ | _
  · rw [cycle_idle hr] at h
    injection h with h
    exact .inl ⟨rfl, h.symm⟩
  · rcases hf : s.fetchWord with _ | op
    · rw [cycle_noFetch hr hf] at h
      injection h with h
      exact .inr (.inl ⟨rfl, rfl, h.symm⟩)
    · rcases hd : decode op with e | i
      · rw [cycle_unknown hr hf hd] at h
        injection h with h
        exact .inr (.inr (.inl ⟨op, e, rfl, rfl, hd, h.symm⟩))
      · rw [cycle_exec hr hf hd] at h
        exact .inr (.inr (.inr ⟨op, i, rfl, rfl, hd, h⟩))

/-- The machine's step with no event listed, and with one. -/
theorem step_idleSchedule {s : State} (h : s.schedule = []) : step s = cycle s.openTurn := by
  simp [step, nextEvent, h]

theorem step_event {s : State} {e : Event} {rest : List Event} (h : s.schedule = e :: rest) :
    step s = applyEvent e { s with schedule := rest } := by
  simp [step, nextEvent, h]

/-! ## The host's plan, and runs -/

theorem placed_quiet {s : State} (h : s.host = .quiet) : s.placed = [] := by simp [State.placed, h]

theorem placed_ticking {s : State} (h : s.host = .ticking) :
    s.placed = List.replicate (Config.ticksAfter s.turns) .tick := by
  simp [State.placed, h]

theorem placed_free {s : State} (h : s.host = .free) : s.placed = Config.hostEvents s.turns := by
  simp [State.placed, h]

/-- The first event of a run, then the others. -/
theorem runEvents_cons {e : Event} {s t : State} (h : applyEvent e s = .next t) (rest : List Event) :
    runEvents (e :: rest) s = runEvents rest t := by
  simp [runEvents, h]

/-- A run cut in two. -/
theorem runEvents_append {events rest : List Event} {s t : State} (h : runEvents events s = .next t) :
    runEvents (events ++ rest) s = runEvents rest t := by
  induction events generalizing s with
  | nil =>
    injection h with h
    rw [h]
    rfl
  | cons e events ih =>
    simp only [List.cons_append, runEvents] at h ⊢
    split at h
    · exact ih h
    · cases h
    · cases h

/-- One event more of an endless sequence. -/
theorem runUpTo_succ {events : Nat → Event} {n : Nat} {s t : State} (h : runUpTo events n s = .next t) :
    runUpTo events (n + 1) s = applyEvent (events n) t := by
  rw [runUpTo, List.range_succ, List.map_append, runEvents_append h]
  simp only [List.map_cons, List.map_nil, runEvents]
  cases applyEvent (events n) t <;> rfl

end Sys2Proof.Machine
end

