-- ==== Sys2Proof/Laws/Display.lean ====
section
/-! SUPPORT. The laws of pixels (spec/10_state.md R28): what a pixel reads after one is set. -/

namespace Sys2Proof.Machine

/-- A pixel after one is set: the value set, or what it was. -/
theorem Framebuffer.pixel_setPixel (fb : Framebuffer) {x y : Nat} (hx : x < 64) (hy : y < 32)
    (on : Bool) (px py : Nat) :
    Framebuffer.pixel (Framebuffer.setPixel fb x y on) px py
      = if px = x ∧ py = y then on else Framebuffer.pixel fb px py := by
  by_cases hpy : py < 32
  · by_cases hpx : px < 64
    · by_cases h : y = py
      · subst h
        cases on <;>
          simp [Framebuffer.pixel, Framebuffer.setPixel, hy, BitVec.getLsbD_twoPow] <;> grind
      · have h' : py ≠ y := fun e => h e.symm
        simp [Framebuffer.pixel, Framebuffer.setPixel, hy, hpy, h, h']
    · have h1 : ∀ r : BitVec 64, r.getLsbD px = false := fun r => BitVec.getLsbD_of_ge r px (by omega)
      have h2 : px ≠ x := by omega
      simp [Framebuffer.pixel, hpy, h1, h2]
  · have h2 : py ≠ y := by omega
    simp [Framebuffer.pixel, hpy, h2]

/-- Two framebuffers with the same pixels are the same framebuffer. -/
theorem Framebuffer.ext_pixel {fb fb' : Framebuffer}
    (h : ∀ x < 64, ∀ y < 32, Framebuffer.pixel fb x y = Framebuffer.pixel fb' x y) : fb = fb' := by
  apply Vector.ext
  intro y hy
  apply BitVec.eq_of_getLsbD_eq
  intro x hx
  have := h x hx y hy
  simpa [Framebuffer.pixel, hy] using this

/-- In a clear framebuffer every pixel is off. -/
@[simp] theorem Framebuffer.pixel_clear (x y : Nat) :
    Framebuffer.pixel Framebuffer.clear x y = false := by
  simp [Framebuffer.pixel, Framebuffer.clear]

end Sys2Proof.Machine
end

