-- ==== Sys2Proof/Laws/Encoding.lean ====
section
/-! SUPPORT. What the fields read from each format (spec/30_encoding.md R72, R74): the number of a word,
the number of a field, and each field of each format. -/

namespace Sys2Proof

/-! ## A word as a number -/

theorem toNat_concat {a b : Nat} (hi : BitVec a) (lo : BitVec b) :
    (hi ++ lo).toNat = 2 ^ b * hi.toNat + lo.toNat := by
  rw [BitVec.toNat_append, ← Nat.shiftLeft_add_eq_or_of_lt lo.isLt, Nat.shiftLeft_eq, Nat.mul_comm]

theorem toNat_formatNNN (top : BitVec 4) (nnn : Addr) :
    (formatNNN top nnn).toNat = 4096 * top.toNat + nnn.toNat := by
  simpa [formatNNN] using toNat_concat top nnn

theorem toNat_formatXKK (top : BitVec 4) (x : Reg) (kk : Byte) :
    (formatXKK top x kk).toNat = 4096 * top.toNat + 256 * x.val + kk.toNat := by
  have h1 := toNat_concat (top ++ BitVec.ofFin (w := 4) x) kk
  have h2 := toNat_concat top (BitVec.ofFin (w := 4) x)
  simp only [BitVec.toNat_ofFin] at h1 h2
  have h3 : (formatXKK top x kk).toNat = 2 ^ 8 * (top ++ BitVec.ofFin (w := 4) x).toNat + kk.toNat := h1
  omega

theorem toNat_formatX (top : BitVec 4) (x : Reg) (sub : Byte) :
    (formatX top x sub).toNat = 4096 * top.toNat + 256 * x.val + sub.toNat :=
  toNat_formatXKK top x sub

theorem toNat_formatXYN (top : BitVec 4) (x y : Reg) (n : BitVec 4) :
    (formatXYN top x y n).toNat = 4096 * top.toNat + 256 * x.val + 16 * y.val + n.toNat := by
  have h1 := toNat_concat (top ++ BitVec.ofFin (w := 4) x ++ BitVec.ofFin (w := 4) y) n
  have h2 := toNat_concat (top ++ BitVec.ofFin (w := 4) x) (BitVec.ofFin (w := 4) y)
  have h3 := toNat_concat top (BitVec.ofFin (w := 4) x)
  simp only [BitVec.toNat_ofFin] at h1 h2 h3
  have h4 : (formatXYN top x y n).toNat
      = 2 ^ 4 * (top ++ BitVec.ofFin (w := 4) x ++ BitVec.ofFin (w := 4) y).toNat + n.toNat := h1
  omega

theorem toNat_wordOfBytes (hi lo : Byte) :
    (wordOfBytes hi lo).toNat = 256 * hi.toNat + lo.toNat := by
  simpa [wordOfBytes] using toNat_concat hi lo

/-! ## A field as a number -/

theorem toNat_topField (w : Word) : (topField w).toNat = w.toNat / 4096 := by
  have := w.isLt
  simp [topField, BitVec.extractLsb'_toNat, Nat.shiftRight_eq_div_pow]
  omega

theorem val_xField (w : Word) : (xField w).val = w.toNat / 256 % 16 := by
  have : (xField w).val = (w.extractLsb' 8 4).toNat := rfl
  simp [this, BitVec.extractLsb'_toNat, Nat.shiftRight_eq_div_pow]

theorem val_yField (w : Word) : (yField w).val = w.toNat / 16 % 16 := by
  have : (yField w).val = (w.extractLsb' 4 4).toNat := rfl
  simp [this, BitVec.extractLsb'_toNat, Nat.shiftRight_eq_div_pow]

theorem toNat_nField (w : Word) : (nField w).toNat = w.toNat % 16 := by
  simp [nField]

theorem toNat_kkField (w : Word) : (kkField w).toNat = w.toNat % 256 := by
  simp [kkField]

theorem toNat_nnnField (w : Word) : (nnnField w).toNat = w.toNat % 4096 := by
  simp [nnnField]

theorem toNat_highByte (w : Word) : (highByte w).toNat = w.toNat / 256 := by
  have := w.isLt
  simp [highByte, BitVec.extractLsb'_toNat, Nat.shiftRight_eq_div_pow]
  omega

theorem toNat_lowByte (w : Word) : (lowByte w).toNat = w.toNat % 256 := by
  simp [lowByte]

/-- Splitting a word into its bytes and joining them gives it back. -/
@[simp] theorem wordOfBytes_split (w : Word) : wordOfBytes (highByte w) (lowByte w) = w := by
  apply BitVec.eq_of_toNat_eq
  rw [toNat_wordOfBytes, toNat_highByte, toNat_lowByte]
  omega

/-! ## The fields of each format -/

@[simp] theorem topField_formatNNN (top : BitVec 4) (nnn : Addr) : topField (formatNNN top nnn) = top := by
  apply BitVec.eq_of_toNat_eq
  rw [toNat_topField, toNat_formatNNN]
  omega

@[simp] theorem nnnField_formatNNN (top : BitVec 4) (nnn : Addr) : nnnField (formatNNN top nnn) = nnn := by
  apply BitVec.eq_of_toNat_eq
  rw [toNat_nnnField, toNat_formatNNN]
  omega

@[simp] theorem topField_formatXKK (top : BitVec 4) (x : Reg) (kk : Byte) :
    topField (formatXKK top x kk) = top := by
  apply BitVec.eq_of_toNat_eq
  rw [toNat_topField, toNat_formatXKK]
  omega

@[simp] theorem xField_formatXKK (top : BitVec 4) (x : Reg) (kk : Byte) :
    xField (formatXKK top x kk) = x := by
  apply Fin.ext
  rw [val_xField, toNat_formatXKK]
  omega

@[simp] theorem kkField_formatXKK (top : BitVec 4) (x : Reg) (kk : Byte) :
    kkField (formatXKK top x kk) = kk := by
  apply BitVec.eq_of_toNat_eq
  rw [toNat_kkField, toNat_formatXKK]
  omega

@[simp] theorem topField_formatX (top : BitVec 4) (x : Reg) (sub : Byte) :
    topField (formatX top x sub) = top := topField_formatXKK top x sub

@[simp] theorem xField_formatX (top : BitVec 4) (x : Reg) (sub : Byte) :
    xField (formatX top x sub) = x := xField_formatXKK top x sub

@[simp] theorem kkField_formatX (top : BitVec 4) (x : Reg) (sub : Byte) :
    kkField (formatX top x sub) = sub := kkField_formatXKK top x sub

@[simp] theorem topField_formatXYN (top : BitVec 4) (x y : Reg) (n : BitVec 4) :
    topField (formatXYN top x y n) = top := by
  apply BitVec.eq_of_toNat_eq
  rw [toNat_topField, toNat_formatXYN]
  omega

@[simp] theorem xField_formatXYN (top : BitVec 4) (x y : Reg) (n : BitVec 4) :
    xField (formatXYN top x y n) = x := by
  apply Fin.ext
  rw [val_xField, toNat_formatXYN]
  omega

@[simp] theorem yField_formatXYN (top : BitVec 4) (x y : Reg) (n : BitVec 4) :
    yField (formatXYN top x y n) = y := by
  apply Fin.ext
  rw [val_yField, toNat_formatXYN]
  omega

@[simp] theorem nField_formatXYN (top : BitVec 4) (x y : Reg) (n : BitVec 4) :
    nField (formatXYN top x y n) = n := by
  apply BitVec.eq_of_toNat_eq
  rw [toNat_nField, toNat_formatXYN]
  omega

/-! ## A word from its fields -/

/-- A word is its top nibble and its low twelve bits. -/
theorem formatNNN_fields (w : Word) : formatNNN (topField w) (nnnField w) = w := by
  apply BitVec.eq_of_toNat_eq
  rw [toNat_formatNNN, toNat_topField, toNat_nnnField]
  omega

/-- A word is its top nibble, x and its low byte. -/
theorem formatXKK_fields (w : Word) : formatXKK (topField w) (xField w) (kkField w) = w := by
  apply BitVec.eq_of_toNat_eq
  rw [toNat_formatXKK, toNat_topField, val_xField, toNat_kkField]
  omega

/-- The same for format X. -/
theorem formatX_fields (w : Word) : formatX (topField w) (xField w) (kkField w) = w := formatXKK_fields w

/-- A word is its four nibbles. -/
theorem formatXYN_fields (w : Word) : formatXYN (topField w) (xField w) (yField w) (nField w) = w := by
  apply BitVec.eq_of_toNat_eq
  rw [toNat_formatXYN, toNat_topField, val_xField, val_yField, toNat_nField]
  omega

end Sys2Proof
end

