-- ==== Sys2Proof/Laws/PerInstr.lean ====
section
/-! SUPPORT. Families of lemmas with one member per instruction. EncodeMatchesRow: the word of an
instruction matches the instruction's own row of the opcode map (spec/30_encoding.md R75, R76). -/

namespace Sys2Proof

/-! ## The masks (30_encoding.md R75) -/

theorem getLsbD_formatNNN (top : BitVec 4) (nnn : Addr) (j : Nat) :
    (formatNNN top nnn).getLsbD j = if j < 12 then nnn.getLsbD j else top.getLsbD (j - 12) :=
  BitVec.getLsbD_append

theorem getLsbD_formatXKK (top : BitVec 4) (x : Reg) (kk : Byte) (j : Nat) :
    (formatXKK top x kk).getLsbD j =
      if j < 8 then kk.getLsbD j
      else if j < 12 then (BitVec.ofFin (w := 4) x).getLsbD (j - 8) else top.getLsbD (j - 12) := by
  refine (BitVec.getLsbD_append (x := top ++ BitVec.ofFin (w := 4) x) (y := kk)).trans ?_
  rw [BitVec.getLsbD_append]
  grind

theorem getLsbD_formatXYN (top : BitVec 4) (x y : Reg) (n : BitVec 4) (j : Nat) :
    (formatXYN top x y n).getLsbD j =
      if j < 4 then n.getLsbD j
      else if j < 8 then (BitVec.ofFin (w := 4) y).getLsbD (j - 4)
      else if j < 12 then (BitVec.ofFin (w := 4) x).getLsbD (j - 8) else top.getLsbD (j - 12) := by
  refine (BitVec.getLsbD_append (x := top ++ BitVec.ofFin (w := 4) x ++ BitVec.ofFin (w := 4) y)
    (y := n)).trans ?_
  rw [BitVec.getLsbD_append, BitVec.getLsbD_append]
  grind

/-- The mask of format NNN and XKK keeps the top nibble. -/
theorem and_mask_top (top : BitVec 4) (nnn : Addr) :
    formatNNN top nnn &&& 0xF000 = formatNNN top 0 := by
  apply BitVec.eq_of_getLsbD_eq
  intro j hj
  rw [BitVec.getLsbD_and, getLsbD_formatNNN, getLsbD_formatNNN]
  interval_cases j <;> simp

theorem and_mask_topXKK (top : BitVec 4) (x : Reg) (kk : Byte) :
    formatXKK top x kk &&& 0xF000 = formatNNN top 0 := by
  apply BitVec.eq_of_getLsbD_eq
  intro j hj
  rw [BitVec.getLsbD_and, getLsbD_formatXKK, getLsbD_formatNNN]
  interval_cases j <;> simp

theorem and_mask_topXYN (top : BitVec 4) (x y : Reg) (n : BitVec 4) :
    formatXYN top x y n &&& 0xF000 = formatNNN top 0 := by
  apply BitVec.eq_of_getLsbD_eq
  intro j hj
  rw [BitVec.getLsbD_and, getLsbD_formatXYN, getLsbD_formatNNN]
  interval_cases j <;> simp

/-- The mask of format XY keeps the top and the low nibble. -/
theorem and_mask_topN (top : BitVec 4) (x y : Reg) (n : BitVec 4) :
    formatXYN top x y n &&& 0xF00F = formatXYN top 0 0 n := by
  apply BitVec.eq_of_getLsbD_eq
  intro j hj
  rw [BitVec.getLsbD_and, getLsbD_formatXYN, getLsbD_formatXYN]
  interval_cases j <;> simp

/-- The mask of format X keeps the top nibble and the low byte. -/
theorem and_mask_topKK (top : BitVec 4) (x : Reg) (sub : Byte) :
    formatX top x sub &&& 0xF0FF = formatX top 0 sub := by
  apply BitVec.eq_of_getLsbD_eq
  intro j hj
  rw [BitVec.getLsbD_and, formatX, formatX]
  have h1 := getLsbD_formatXKK top x sub j
  have h2 := getLsbD_formatXKK top 0 sub j
  simp only [formatXKK] at h1 h2
  rw [h1, h2]
  interval_cases j <;> simp

/-! ## The family -/

namespace Laws.EncodeMatchesRow

/-- The instruction's word matches its row: `encode i AND mask = match`. -/
def Statement (i : Instr) : Prop := encode i &&& (opcodeRow i).2 = (opcodeRow i).1

theorem cls : Statement .cls := rfl

theorem ret : Statement .ret := rfl

theorem jp (nnn : Addr) : Statement (.jp nnn) :=
  (and_mask_top ..).trans rfl

theorem call (nnn : Addr) : Statement (.call nnn) :=
  (and_mask_top ..).trans rfl

theorem seByte (x : Reg) (kk : Byte) : Statement (.seByte x kk) :=
  (and_mask_topXKK ..).trans rfl

theorem sneByte (x : Reg) (kk : Byte) : Statement (.sneByte x kk) :=
  (and_mask_topXKK ..).trans rfl

theorem seReg (x y : Reg) : Statement (.seReg x y) :=
  (and_mask_topN ..).trans rfl

theorem ldByte (x : Reg) (kk : Byte) : Statement (.ldByte x kk) :=
  (and_mask_topXKK ..).trans rfl

theorem addByte (x : Reg) (kk : Byte) : Statement (.addByte x kk) :=
  (and_mask_topXKK ..).trans rfl

theorem ldReg (x y : Reg) : Statement (.ldReg x y) :=
  (and_mask_topN ..).trans rfl

theorem orReg (x y : Reg) : Statement (.orReg x y) :=
  (and_mask_topN ..).trans rfl

theorem andReg (x y : Reg) : Statement (.andReg x y) :=
  (and_mask_topN ..).trans rfl

theorem xorReg (x y : Reg) : Statement (.xorReg x y) :=
  (and_mask_topN ..).trans rfl

theorem addReg (x y : Reg) : Statement (.addReg x y) :=
  (and_mask_topN ..).trans rfl

theorem sub (x y : Reg) : Statement (.sub x y) :=
  (and_mask_topN ..).trans rfl

theorem shr (x y : Reg) : Statement (.shr x y) :=
  (and_mask_topN ..).trans rfl

theorem subn (x y : Reg) : Statement (.subn x y) :=
  (and_mask_topN ..).trans rfl

theorem shl (x y : Reg) : Statement (.shl x y) :=
  (and_mask_topN ..).trans rfl

theorem sneReg (x y : Reg) : Statement (.sneReg x y) :=
  (and_mask_topN ..).trans rfl

theorem ldI (nnn : Addr) : Statement (.ldI nnn) :=
  (and_mask_top ..).trans rfl

theorem jpV0 (nnn : Addr) : Statement (.jpV0 nnn) :=
  (and_mask_top ..).trans rfl

theorem rnd (x : Reg) (kk : Byte) : Statement (.rnd x kk) :=
  (and_mask_topXKK ..).trans rfl

theorem drw (x y : Reg) (n : Nat) : Statement (.drw x y n) :=
  (and_mask_topXYN ..).trans rfl

theorem skp (x : Reg) : Statement (.skp x) :=
  (and_mask_topKK ..).trans rfl

theorem sknp (x : Reg) : Statement (.sknp x) :=
  (and_mask_topKK ..).trans rfl

theorem ldVxDt (x : Reg) : Statement (.ldVxDt x) :=
  (and_mask_topKK ..).trans rfl

theorem ldVxK (x : Reg) : Statement (.ldVxK x) :=
  (and_mask_topKK ..).trans rfl

theorem ldDtVx (x : Reg) : Statement (.ldDtVx x) :=
  (and_mask_topKK ..).trans rfl

theorem ldStVx (x : Reg) : Statement (.ldStVx x) :=
  (and_mask_topKK ..).trans rfl

theorem addIVx (x : Reg) : Statement (.addIVx x) :=
  (and_mask_topKK ..).trans rfl

theorem ldFVx (x : Reg) : Statement (.ldFVx x) :=
  (and_mask_topKK ..).trans rfl

theorem ldBVx (x : Reg) : Statement (.ldBVx x) :=
  (and_mask_topKK ..).trans rfl

theorem ldMemVx (x : Reg) : Statement (.ldMemVx x) :=
  (and_mask_topKK ..).trans rfl

theorem ldVxMem (x : Reg) : Statement (.ldVxMem x) :=
  (and_mask_topKK ..).trans rfl

end Laws.EncodeMatchesRow

end Sys2Proof
end

