-- ==== Sys2Proof/Tests/Slice0.lean ====
section
/-! SUPPORT. Tests: words written out from the encodings of spec/30_encoding.md, one-step vectors of
spec/95_test_vectors.md (the vector's number stands in each name), and for every statement with hypotheses
a state and operands that meet them. -/

namespace Sys2Proof.Tests

open Sys2Proof Sys2Proof.Machine Sys2Proof.Statement

/-! ## Helpers -/

/-- The state in an answer; the reset state where there is none. -/
def after (r : Result) : State :=
  match r with
  | .next t => t
  | .fault _ => State.reset
  | .refused _ => State.reset

/-- `s` about to run the word `w` stored at `pc0`, high byte first. -/
def place (pc0 : Nat) (w : Word) (s : State) : State :=
  { s with
    pc := BitVec.ofNat 16 pc0
    mem := Memory.writeAll s.cfg.font s.mem pc0 [highByte w, lowByte w] }

/-- The state after one step that runs `w` at `pc0` in `s`. -/
def ran (pc0 : Nat) (w : Word) (s : State) : State := after (step (place pc0 w s))

/-- The reset state with some registers set. -/
def regs (vs : List (Reg × Byte)) : State :=
  vs.foldl (fun s p => s.setReg p.1 p.2) State.reset

/-- `s` with bytes stored from `a` on. -/
def stored (a : Nat) (bytes : List Byte) (s : State) : State :=
  { s with mem := Memory.writeAll s.cfg.font s.mem a bytes }

/-- `s` with one pixel on. -/
def lit (x y : Nat) (s : State) : State := { s with fb := s.fb.setPixel x y true }

/-- The reset state under other parameters. -/
def under (shift : ShiftSrc) (mode : AddIMode) (s : State) : State :=
  { s with cfg := { s.cfg with shiftSrc := shift, addIMode := mode } }

/-- The reset state halted by the word 0x0000 (vector X4). -/
def stopped : State := State.reset.halted .unknownOpcode 0 0x200

/-- The reset state suspended in `LD V3,K` (vector K11). -/
def suspended : State := { State.reset with wait := true, wreg := 3 }

/-! ## WellFormed -/

theorem test_wellFormed_drw_sixteen_rows : WellFormed (.drw 0 0 16) = false := by decide
theorem test_wellFormed_drw_fifteen_rows : WellFormed (.drw 0 0 15) = true := by decide

/-! ## Decoding: formats OP, NNN, XKK, XY, XYN, X (30_encoding.md R74, R76) -/

theorem test_decode_op :
    decode 0b0000000011100000 = .ok .cls ∧ decode 0b0000000011101110 = .ok .ret := by decide

theorem test_decode_nnn :
    decode 0b0001101010111100 = .ok (.jp 0xABC) ∧ decode 0b0010101010111100 = .ok (.call 0xABC) ∧
    decode 0b1010101010111100 = .ok (.ldI 0xABC) ∧ decode 0b1011101010111100 = .ok (.jpV0 0xABC) := by
  decide

theorem test_decode_xkk :
    decode 0b0011101001000010 = .ok (.seByte 0xA 0x42) ∧
    decode 0b0100101001000010 = .ok (.sneByte 0xA 0x42) ∧
    decode 0b0110101001000010 = .ok (.ldByte 0xA 0x42) ∧
    decode 0b0111101001000010 = .ok (.addByte 0xA 0x42) ∧
    decode 0b1100101001000010 = .ok (.rnd 0xA 0x42) := by
  decide

theorem test_decode_xy_compares :
    decode 0b0101101010110000 = .ok (.seReg 0xA 0xB) ∧
    decode 0b1001101010110000 = .ok (.sneReg 0xA 0xB) := by
  decide

theorem test_decode_xy_alu :
    decode 0b1000101010110000 = .ok (.ldReg 0xA 0xB) ∧
    decode 0b1000101010110001 = .ok (.orReg 0xA 0xB) ∧
    decode 0b1000101010110010 = .ok (.andReg 0xA 0xB) ∧
    decode 0b1000101010110011 = .ok (.xorReg 0xA 0xB) ∧
    decode 0b1000101010110100 = .ok (.addReg 0xA 0xB) ∧
    decode 0b1000101010110101 = .ok (.sub 0xA 0xB) ∧
    decode 0b1000101010110110 = .ok (.shr 0xA 0xB) ∧
    decode 0b1000101010110111 = .ok (.subn 0xA 0xB) ∧
    decode 0b1000101010111110 = .ok (.shl 0xA 0xB) := by
  decide

theorem test_decode_xyn : decode 0b1101000100100101 = .ok (.drw 1 2 5) := by decide

theorem test_decode_x_keys :
    decode 0b1110010110011110 = .ok (.skp 5) ∧ decode 0b1110010110100001 = .ok (.sknp 5) := by decide

theorem test_decode_x_misc :
    decode 0b1111010100000111 = .ok (.ldVxDt 5) ∧ decode 0b1111010100001010 = .ok (.ldVxK 5) ∧
    decode 0b1111010100010101 = .ok (.ldDtVx 5) ∧ decode 0b1111010100011000 = .ok (.ldStVx 5) ∧
    decode 0b1111010100011110 = .ok (.addIVx 5) ∧ decode 0b1111010100101001 = .ok (.ldFVx 5) ∧
    decode 0b1111010100110011 = .ok (.ldBVx 5) ∧ decode 0b1111010101010101 = .ok (.ldMemVx 5) ∧
    decode 0b1111010101100101 = .ok (.ldVxMem 5) := by
  decide

/-- Unknown words of every family that has some (R77), among them the words of vectors F17, F20, K6 and X4
to X10. -/
theorem test_decode_unknown :
    decode 0x0000 = .error (.unknownOpcode 0x0000) ∧ decode 0x0123 = .error (.unknownOpcode 0x0123) ∧
    decode 0x00E1 = .error (.unknownOpcode 0x00E1) ∧ decode 0x01E0 = .error (.unknownOpcode 0x01E0) ∧
    decode 0x5121 = .error (.unknownOpcode 0x5121) ∧ decode 0x8128 = .error (.unknownOpcode 0x8128) ∧
    decode 0x912F = .error (.unknownOpcode 0x912F) ∧ decode 0xE29F = .error (.unknownOpcode 0xE29F) ∧
    decode 0xF1FF = .error (.unknownOpcode 0xF1FF) ∧ decode 0xFFFF = .error (.unknownOpcode 0xFFFF) := by
  decide

/-- Bytes of a stream, the first the high one (20_memory.md R53), and a stream too short. -/
theorem test_decode_bytes :
    decodeBytes [0x60, 0x05, 0x70] = .ok (.ldByte 0 5, [0x70]) ∧
    decodeBytes [0x60] = .error .truncated ∧ decodeBytes [] = .error .truncated := by
  decide

theorem test_decode_table_word :
    decodeTableWord 16 0xD125 = some (.drw 1 2 5) ∧ decodeTableWord 16 0xF51F = none := by decide

/-! ## Control transfer (95_test_vectors.md 2.1) -/

theorem test_F1_ret :
    let s := { State.reset with sp := 1, stack := State.reset.stack.set 0 0x206 }
    (ran 0x212 0x00EE s).pc = 0x206 ∧ (ran 0x212 0x00EE s).sp = 0 ∧
    (ran 0x212 0x00EE s).stack[0] = 0x206 := by
  decide

theorem test_F2_ret_underflow :
    (ran 0x200 0x00EE State.reset).pc = 0x200 ∧ (ran 0x200 0x00EE State.reset).halt = true ∧
    (ran 0x200 0x00EE State.reset).err = ⟨some .stackUnderflow, 0x00EE, 0x200⟩ := by
  decide

theorem test_F4_jp : (ran 0x200 0x1204 State.reset).pc = 0x204 := by decide

theorem test_F8_call_sixteenth :
    let t := ran 0x400 0x2300 { State.reset with sp := 15 }
    t.pc = 0x300 ∧ t.sp = 16 ∧ t.stack[15] = 0x402 := by
  decide

theorem test_F9_call_overflow :
    let t := ran 0x400 0x2300 { State.reset with sp := 16 }
    t.pc = 0x400 ∧ t.sp = 16 ∧ t.err = ⟨some .stackOverflow, 0x2300, 0x400⟩ := by
  decide

theorem test_F12_se_byte :
    (ran 0x208 0x3000 State.reset).pc = 0x20C ∧ (ran 0x208 0x3000 (regs [(0, 1)])).pc = 0x20A := by
  decide

theorem test_F13_sne_byte :
    (ran 0x300 0x4311 (regs [(3, 0x10)])).pc = 0x304 ∧
    (ran 0x300 0x4310 (regs [(3, 0x10)])).pc = 0x302 := by
  decide

theorem test_F15_se_reg :
    (ran 0x200 0x5120 (regs [(1, 7), (2, 7)])).pc = 0x204 ∧
    (ran 0x200 0x5120 (regs [(1, 7), (2, 8)])).pc = 0x202 := by
  decide

theorem test_F18_sne_reg :
    (ran 0x200 0x9120 (regs [(1, 7), (2, 8)])).pc = 0x204 ∧
    (ran 0x200 0x9330 (regs [(3, 0x55)])).pc = 0x202 := by
  decide

theorem test_F22_jpV0 :
    (ran 0x200 0xB300 (regs [(0, 4)])).pc = 0x304 ∧
    (ran 0x200 0xBFFF (regs [(0, 0xFF)])).pc = 0x10FE := by
  decide

/-! ## Registers and arithmetic (95_test_vectors.md 2.2) -/

theorem test_A2_ld_byte :
    (ran 0x200 0x6FAB State.reset).reg VF = 0xAB ∧ (ran 0x200 0x6FAB State.reset).pc = 0x202 := by decide

theorem test_A4_add_byte :
    let t := ran 0x200 0x7101 (regs [(1, 0xFF), (VF, 7)])
    t.reg 1 = 0 ∧ t.reg VF = 7 := by
  decide

theorem test_A6_ld_reg : (ran 0x200 0x8120 (regs [(2, 0x7E)])).reg 1 = 0x7E := by decide

theorem test_A7_or :
    let t := ran 0x200 0x8121 (regs [(1, 0xF0), (2, 0x0F), (VF, 1)])
    t.reg 1 = 0xFF ∧ t.reg VF = 1 := by
  decide

theorem test_A8_and :
    let t := ran 0x200 0x8122 (regs [(1, 0xF3), (2, 0x3C), (VF, 1)])
    t.reg 1 = 0x30 ∧ t.reg VF = 1 := by
  decide

theorem test_A9_xor :
    let t := ran 0x200 0x8123 (regs [(1, 0xFF), (2, 0x0F), (VF, 1)])
    t.reg 1 = 0xF0 ∧ t.reg VF = 1 := by
  decide

theorem test_A11_add :
    let t := ran 0x200 0x8124 (regs [(1, 0xC8), (2, 0x64)])
    t.reg 1 = 0x2C ∧ t.reg VF = 1 := by
  decide

theorem test_A15_add_into_VF : (ran 0x200 0x8F14 (regs [(VF, 0xF0), (1, 0x20)])).reg VF = 1 := by decide

theorem test_A19_sub :
    let t := ran 0x200 0x8125 (regs [(1, 0x0A), (2, 0x0B)])
    t.reg 1 = 0xFF ∧ t.reg VF = 0 := by
  decide

theorem test_A21_sub_equal :
    let t := ran 0x200 0x8125 (regs [(1, 0x33), (2, 0x33)])
    t.reg 1 = 0 ∧ t.reg VF = 1 := by
  decide

theorem test_A26_subn :
    let t := ran 0x200 0x8127 (regs [(1, 0x0B), (2, 0x0A), (VF, 1)])
    t.reg 1 = 0xFF ∧ t.reg VF = 0 := by
  decide

theorem test_A30_shr_vx :
    let t := ran 0x200 0x8126 (regs [(1, 5), (2, 0xFE)])
    t.reg 1 = 2 ∧ t.reg VF = 1 ∧ t.reg 2 = 0xFE := by
  decide

theorem test_A31_shr_vy :
    let t := ran 0x200 0x8126 (under .vy .w16 (regs [(1, 5), (2, 0xFE)]))
    t.reg 1 = 0x7F ∧ t.reg VF = 0 ∧ t.reg 2 = 0xFE := by
  decide

theorem test_A34_shl_vx :
    let t := ran 0x200 0x810E (regs [(1, 0x81)])
    t.reg 1 = 2 ∧ t.reg VF = 1 := by
  decide

theorem test_A37_shl_vy :
    let t := ran 0x200 0x812E (under .vy .w16 (regs [(1, 1), (2, 0xC0)]))
    t.reg 1 = 0x80 ∧ t.reg VF = 1 := by
  decide

theorem test_A40_rnd (h : Config.draw 0 = 0xA7) :
    (after (exec (.rnd 1 0x0F) State.reset)).reg 1 = 7 := by
  simp [exec, execRnd, after, State.reset, h, State.countDraw, State.reg, State.setReg]

/-! ## Index register and memory transfer (95_test_vectors.md 2.3) -/

theorem test_M2_ldI : (ran 0x200 0xAFFF { State.reset with i := 0x1234 }).i = 0x0FFF := by decide

/-- M4, M5, M6: the three modes of ADD I,Vx on I = 0x0FFF and Vx = 1. -/
theorem test_M4_M5_M6_addI :
    let s := { regs [(2, 1)] with i := 0x0FFF }
    (ran 0x200 0xF21E s).i = 0x1000 ∧ (ran 0x200 0xF21E s).reg VF = 0 ∧
    (ran 0x200 0xF21E (under .vx .w12 s)).i = 0 ∧ (ran 0x200 0xF21E (under .vx .w12 s)).reg VF = 0 ∧
    (ran 0x200 0xF21E (under .vx .w16Vf s)).i = 0x1000 ∧
    (ran 0x200 0xF21E (under .vx .w16Vf s)).reg VF = 1 := by
  decide

theorem test_M9_addI_old_VF :
    let t := ran 0x200 0xFF1E (under .vx .w16Vf { regs [(VF, 2)] with i := 0x0FFE })
    t.i = 0x1000 ∧ t.reg VF = 1 := by
  decide

theorem test_M13_M14_ldF :
    (ran 0x200 0xF029 (regs [(0, 0x10)])).i = 0x00A0 ∧
    (ran 0x200 0xF029 (regs [(0, 0xFF)])).i = 0x054B := by
  decide

theorem test_M18_bcd :
    let t := ran 0x200 0xF033 { regs [(0, 0x64)] with i := 0x0FFD }
    t.readByte 0xFFD = 1 ∧ t.readByte 0xFFE = 0 ∧ t.readByte 0xFFF = 0 ∧ t.halt = false := by
  decide

theorem test_M19_bcd_fault :
    let t := ran 0x200 0xF033 { regs [(0, 0x64)] with i := 0x0FFE }
    t.readByte 0xFFE = 0 ∧ t.pc = 0x200 ∧ t.err = ⟨some .outOfBoundsAccess, 0xF033, 0x200⟩ := by
  decide

theorem test_M20_store :
    let t := ran 0x200 0xF155 { regs [(0, 0x11), (1, 0x22), (2, 0x33)] with i := 0x400 }
    t.readByte 0x400 = 0x11 ∧ t.readByte 0x401 = 0x22 ∧ t.readByte 0x402 = 0 ∧ t.i = 0x400 := by
  decide

theorem test_M22_store_fault :
    let t := ran 0x200 0xF155 { regs [(0, 0x11), (1, 0x22)] with i := 0xFFF }
    t.readByte 0xFFF = 0 ∧ t.err = ⟨some .outOfBoundsAccess, 0xF155, 0x200⟩ := by
  decide

theorem test_M23_load :
    let t := ran 0x200 0xF265 (stored 0x300 [2, 5, 4, 9] { regs [(3, 0x77)] with i := 0x300 })
    t.reg 0 = 2 ∧ t.reg 1 = 5 ∧ t.reg 2 = 4 ∧ t.reg 3 = 0x77 ∧ t.i = 0x300 := by
  decide

theorem test_M24_load_font : (ran 0x200 0xF065 { State.reset with i := 0x50 }).reg 0 = 0xF0 := by decide

/-! ## Display (95_test_vectors.md 2.4) -/

theorem test_G1_cls :
    (ran 0x200 0x00E0 (lit 0 0 (lit 63 31 State.reset))).fb = Vector.replicate 32 0 := by decide

/-- G5: a sprite that crosses both edges; bit `x` of row `y` is the pixel of column `x`. -/
theorem test_G5_drw_wraps :
    let t := ran 0x200 0xD012 (stored 0x300 [0xF0, 0x81]
      { regs [(0, 62), (1, 31), (VF, 1)] with i := 0x300 })
    t.fb[31] = 0xC000000000000003 ∧ t.fb[0] = 0x4000000000000020 ∧ t.fb[1] = 0 ∧ t.reg VF = 0 := by
  decide +kernel

theorem test_G7_drw_collision :
    let t := ran 0x200 0xD011 (stored 0x300 [0xC0] (lit 1 0 { State.reset with i := 0x300 }))
    t.fb[0] = 1 ∧ t.reg VF = 1 := by
  decide

/-! ## Keypad and timers (95_test_vectors.md 2.5) -/

theorem test_K3_skp :
    (ran 0x200 0xE29E { regs [(2, 0x1A)] with key := 0x0400 }).pc = 0x204 ∧
    (ran 0x200 0xE29E (regs [(2, 5)])).pc = 0x202 := by
  decide

theorem test_K5_sknp :
    (ran 0x200 0xE2A1 { regs [(2, 5)] with key := 0x0020 }).pc = 0x202 ∧
    (ran 0x200 0xE2A1 (regs [(2, 5)])).pc = 0x204 := by
  decide

theorem test_K7_ldVxDt :
    let t := ran 0x200 0xF407 { State.reset with dt := 0x2A }
    t.reg 4 = 0x2A ∧ t.dt = 0x2A := by
  decide

theorem test_K8_ldDtVx : (ran 0x200 0xF315 (regs [(3, 5)])).dt = 5 := by decide

theorem test_K9_ldStVx :
    (ran 0x200 0xF318 (regs [(3, 2)])).st = 2 ∧ (ran 0x200 0xF318 (regs [(3, 2)])).tone = true := by decide

theorem test_K12_ldVxK_held_key :
    let t := ran 0x200 0xF30A { State.reset with key := 2 }
    t.pc = 0x200 ∧ t.wait = true ∧ t.wreg = 3 ∧ t.reg 3 = 0 := by
  decide

/-- K17 from the suspended state: of two fresh keys the lowest is taken. -/
theorem test_K17_wake :
    let t := suspended.setKeys 0x8100
    t.reg 3 = 8 ∧ t.pc = 0x202 ∧ t.wait = false ∧ t.key = 0x8100 := by
  decide

/-- K18: a held key is not fresh. -/
theorem test_K18_wake_fresh_only : ({ suspended with key := 1 }.setKeys 0x81).reg 3 = 7 := by decide

/-! ## Faults and host events (95_test_vectors.md 2.6) -/

theorem test_X1_fetch :
    let t := after (step { State.reset with pc := 0xFFF })
    t.pc = 0xFFF ∧ t.err = ⟨some .outOfBoundsFetch, 0, 0xFFF⟩ := by
  decide

theorem test_X4_zeroed_memory :
    after (step { State.reset with schedule := [.step] }) = stopped ∧
    (after (step State.reset)).err = ⟨some .unknownOpcode, 0, 0x200⟩ := by
  decide

/-- K19 by the machine's own steps: the timers run while the block waits. -/
theorem test_K19_ticks_while_waiting :
    let s := { suspended with dt := 3, st := 1, schedule := [.tick, .step] }
    (after (step s)).dt = 2 ∧ (after (step s)).st = 0 ∧ (after (step s)).schedule = [.step] := by
  decide

theorem test_X11_halted_tick : ({ stopped with dt := 2 }.tick).dt = 1 := by decide

/-- T3: a timer at 0 stays at 0. -/
theorem test_T3_tick_floor : State.reset.tick.dt = 0 ∧ State.reset.tick.st = 0 := by decide

theorem test_X14_load_too_large :
    (State.reset.loadProgram (List.replicate 3585 0xAB)).err = ⟨some .romTooLarge, 0, 0x200⟩ := by
  rw [State.loadProgram, if_pos (by rw [List.length_replicate]; decide)]
  rfl

theorem test_E8_load_program :
    let t := State.reset.loadProgram [0x60, 0x05, 0x70, 0x0A]
    t.mem = [(0x200, 0x60), (0x201, 0x05), (0x202, 0x70), (0x203, 0x0A)] ∧
    (after (step t)).reg 0 = 5 ∧ (after (step t)).pc = 0x202 := by
  decide

/-- X16: Reset after a fault. -/
theorem test_X16_reset : ({ stopped with dt := 7 } : State).resetEvent = State.reset := by decide

/-! ## Writing what an unlisted address reads as removes the entry (log 8) -/

theorem test_memory_canonical :
    Memory.write Config.defaultFont [(0x300, 5)] 0x300 0 = [] ∧
    Memory.write Config.defaultFont [] 0x50 0xF0 = [] := by
  decide

/-! ## Witnesses: states and operands that meet the hypotheses of each statement

Each theorem is named after its statement; a statement of several clauses has a witness for each, at a
boundary value. -/

theorem witness_DecodeEncodeRoundTrip : WellFormed (.drw 15 15 15) = true := by decide

theorem witness_EncodeDecodeRoundTrip : decode 0xDFFF = .ok (.drw 15 15 15) := by decide

theorem witness_DecodeFindsTheOneRow :
    decode 0xFF65 = .ok (.ldVxMem 15) ∧ (0xF065, 0xF0FF) ∈ opcodeMap ∧
    (0xFF65 : Word) &&& 0xF0FF = 0xF065 := by
  decide

/-- One word of each family, next to a known one. -/
theorem witness_UnknownWordsAreThoseListed_unknown :
    UnknownWord 0x00E1 ∧ UnknownWord 0x0FFF ∧ UnknownWord 0x500F ∧ UnknownWord 0x8FFF ∧
    UnknownWord 0x9001 ∧ UnknownWord 0xE0A0 ∧ UnknownWord 0xF064 := by
  simp [UnknownWord]

theorem witness_UnknownWordsAreThoseListed_known :
    ¬ UnknownWord 0x00E0 ∧ ¬ UnknownWord 0x5FF0 ∧ ¬ UnknownWord 0x8FFE ∧ ¬ UnknownWord 0x9FF0 ∧
    ¬ UnknownWord 0xEFA1 ∧ ¬ UnknownWord 0xFF65 ∧ ¬ UnknownWord 0x1000 := by
  simp [UnknownWord]

/-- A running state whose PC is the last fetchable address, with nothing scheduled. -/
theorem witness_StepRunsTheDecodedInstruction :
    let s := place 0xFFE 0x6001 State.reset
    s.halt = false ∧ s.wait = false ∧ s.pc.toNat + 1 ≤ 0xFFF ∧
    decode (wordAt s s.pc.toNat) = .ok (.ldByte 0 1) ∧ s.schedule = [] := by
  decide

/-- The same with a `Step` scheduled. -/
theorem witness_StepRunsTheDecodedInstruction_scheduled :
    let s := { place 0xFFE 0x6001 State.reset with schedule := [.step, .tick] }
    s.halt = false ∧ s.wait = false ∧ s.pc.toNat + 1 ≤ 0xFFF ∧
    decode (wordAt s s.pc.toNat) = .ok (.ldByte 0 1) ∧ s.schedule = .step :: [.tick] := by
  decide

theorem witness_InstructionCycleByCases_idle :
    (stopped.halt = true ∨ stopped.wait = true) ∧
    (suspended.halt = true ∨ suspended.wait = true) := by
  decide

theorem witness_InstructionCycleByCases_fetch :
    let s := { State.reset with pc := 0xFFF }
    s.halt = false ∧ s.wait = false ∧ s.pc.toNat + 1 > 0xFFF := by
  decide

theorem witness_InstructionCycleByCases_execute :
    let s := place 0xFFE 0x6001 State.reset
    s.halt = false ∧ s.wait = false ∧ s.pc.toNat + 1 ≤ 0xFFF ∧
    decode (wordAt s s.pc.toNat) = .ok (.ldByte 0 1) := by
  decide

theorem witness_InstructionCycleByCases_unknown :
    let s := { State.reset with pc := 0xFFE }
    s.halt = false ∧ s.wait = false ∧ s.pc.toNat + 1 ≤ 0xFFF ∧
    decode (wordAt s s.pc.toNat) = .error (.unknownOpcode 0) := by
  decide

/-- An odd PC and the last fetchable one. -/
theorem witness_FetchIsBigEndianAtAnyPc :
    ({ State.reset with pc := 0x201 } : State).pc.toNat + 1 ≤ 0xFFF ∧
    ({ State.reset with pc := 0xFFE } : State).pc.toNat + 1 ≤ 0xFFF := by
  decide

theorem witness_FetchBeyondMemoryHalts :
    let s := { State.reset with pc := 0xFFF }
    s.halt = false ∧ s.wait = false ∧ s.pc.toNat ≥ 0xFFF := by
  decide

/-- A cycle that halts below 0xFFF, by another fault. -/
theorem witness_FetchBeyondMemoryHalts_below :
    let s := { State.reset with pc := 0xFFE }
    s.halt = false ∧ s.wait = false ∧ s.pc.toNat < 0xFFF ∧
    applyEvent .step s = .next (s.halted .unknownOpcode 0 0xFFE) :=
  ⟨rfl, rfl, by decide, rfl⟩

theorem witness_UnknownOpcodeHalts :
    let s := place 0xFFE 0x8128 State.reset
    s.halt = false ∧ s.wait = false ∧ s.pc.toNat + 1 ≤ 0xFFF ∧
    UnknownWord (wordAt s s.pc.toNat).toNat := by
  unfold UnknownWord; decide

theorem witness_FaultsArePrecise :
    State.reset.halt = false ∧ applyEvent .step State.reset = .next stopped ∧ stopped.halt = true :=
  ⟨rfl, rfl, rfl⟩

/-- Each line of the table of faults, at the boundary of its condition. -/
theorem witness_FaultsAreThoseOfTheTable :
    faultOf .step { State.reset with pc := 0xFFF } = (1, 0, 0xFFF) ∧
    faultOf .step State.reset = (2, 0, 0x200) ∧
    faultOf .step (place 0x200 0x2300 { State.reset with sp := 16 }) = (3, 0x2300, 0x200) ∧
    faultOf .step (place 0x200 0x2300 { State.reset with sp := 15 }) = (0, 0, 0) ∧
    faultOf .step (place 0x200 0x00EE State.reset) = (4, 0x00EE, 0x200) ∧
    faultOf .step (place 0x200 0x00EE { State.reset with sp := 1 }) = (0, 0, 0) ∧
    faultOf .step (place 0x200 0xD012 { State.reset with i := 0xFFF }) = (6, 0xD012, 0x200) ∧
    faultOf .step (place 0x200 0xD011 { State.reset with i := 0xFFF }) = (0, 0, 0) ∧
    faultOf .step (place 0x200 0xD010 { State.reset with i := 0xFFFF }) = (0, 0, 0) ∧
    faultOf .step (place 0x200 0xF033 { State.reset with i := 0xFFE }) = (6, 0xF033, 0x200) ∧
    faultOf .step (place 0x200 0xF155 { State.reset with i := 0xFFF }) = (6, 0xF155, 0x200) ∧
    faultOf .step (place 0x200 0xFF65 { State.reset with i := 0xFF1 }) = (6, 0xFF65, 0x200) := by
  decide

/-- The same of a program one byte too long. -/
theorem witness_FaultsAreThoseOfTheTable_load :
    faultOf (.loadProgram (List.replicate 3585 0)) State.reset = (5, 0, 0x200) ∧
    faultOf (.loadProgram (List.replicate 3584 0)) State.reset = (0, 0, 0) := by
  constructor
  · rw [faultOf, if_pos (by rw [List.length_replicate]; decide)]; rfl
  · rw [faultOf, if_neg (by rw [List.length_replicate]; decide)]

theorem witness_FaultsAreThoseOfTheTable_event :
    State.reset.halt = false ∧ applyEvent .step State.reset = .next stopped := ⟨rfl, rfl⟩

theorem witness_FaultsArePrecise_fetch :
    let s := { State.reset with pc := 0xFFF }
    s.halt = false ∧ applyEvent .step s = .next (s.halted .outOfBoundsFetch 0 0xFFF) := ⟨rfl, rfl⟩

theorem witness_HaltedUntilReset :
    stopped.halt = true ∧ Event.tick ≠ .reset ∧
    applyEvent .tick stopped = .next stopped.tick ∧ ∀ bytes : List Byte, Event.tick ≠ .loadProgram bytes :=
  ⟨rfl, by decide, rfl, fun _ h => by cases h⟩

/-- The reset state satisfies the invariant. -/
theorem witness_reset_inv : State.reset.Inv where
  memWf := rfl
  pcBound := by decide
  stackBound := by decide
  waitPc := by decide
  haltErr := rfl
  noFault := fun _ => rfl
  errPc := by decide
  errWord := by decide
  haltWait := by decide
  indexBound := by decide

theorem witness_InvariantKeptByEveryStep :
    State.reset.Inv ∧ step State.reset
      = .next { stopped with schedule := State.reset.placed, turns := 1 } :=
  ⟨witness_reset_inv, rfl⟩

theorem witness_ReachableStatesAreBounded :
    Reachable stopped ∧ Reachable (under .vx .w12 State.reset).resetEvent ∧
    (under .vx .w12 State.reset).resetEvent.cfg.addIMode = .w12 :=
  ⟨.event .step (.reset State.reset) (t := stopped) rfl, .reset _, rfl⟩

theorem witness_EqualBytesAreEqualMemories :
    MemOk State.reset ∧ MemOk stopped ∧ stopped.cfg = State.reset.cfg ∧
    ∀ a, a ≤ 0xFFF → stopped.readByte a = State.reset.readByte a :=
  ⟨rfl, rfl, rfl, fun _ _ => rfl⟩

/-- The longest program, one byte more, and the same on a halted block. -/
theorem witness_LoadProgramCopiesOrRefuses :
    MemOk State.reset ∧ MemOk stopped ∧ (List.replicate 3584 (0xAB : Byte)).length ≤ 3584 ∧
    (List.replicate 3585 (0xAB : Byte)).length > 3584 ∧ State.reset.halt = false ∧ stopped.halt = true :=
  ⟨rfl, rfl, by rw [List.length_replicate], by rw [List.length_replicate]; decide, rfl, rfl⟩

theorem witness_FetchWordPlacedIsRun :
    MemOk State.reset ∧ decodeTableWord 16 0xD125 = some (.drw 1 2 5) := by
  unfold MemOk; decide

/-- Every stack depth has its clause: one entry, a full stack, an empty one. -/
theorem witness_RetPopsThePc :
    ({ State.reset with sp := 1 } : State).sp.val = (0 : Fin 16).val + 1 ∧
    ({ State.reset with sp := 16 } : State).sp.val = (15 : Fin 16).val + 1 ∧
    State.reset.sp.val = 0 := by
  decide

theorem witness_CallPushesThePc :
    State.reset.sp.val = (0 : Fin 16).val ∧
    ({ State.reset with sp := 15 } : State).sp.val = (15 : Fin 16).val ∧
    ({ State.reset with sp := 16 } : State).sp.val = 16 := by
  decide

/-- Sixteen nested calls from an empty stack. -/
theorem witness_CallChainReturns :
    List.replicate 16 (0x300 : Addr) ≠ [] ∧
    State.reset.sp.val + (List.replicate 16 (0x300 : Addr)).length ≤ 16 := by
  decide

theorem witness_SelfJumpIsStable :
    let s := place 0x200 0x1200 State.reset
    s.halt = false ∧ s.wait = false ∧ s.pc.toNat = (0x200 : Addr).toNat ∧ s.pc.toNat + 1 ≤ 0xFFF ∧
    (wordAt s s.pc.toNat).toNat = 0x1000 + (0x200 : Addr).toNat := by
  decide

/-- A destination that is not VF, for the three statements that speak of it. -/
theorem witness_AddSetsTheCarry : (0 : Reg) ≠ VF := by decide

theorem witness_SubtractsSetNoBorrow : (14 : Reg) ≠ VF := by decide

theorem witness_ShiftsSetTheBitShiftedOut :
    (State.reset.cfg.shiftSrc = .vx → (0 : Byte) = State.reset.reg 1) ∧
    (State.reset.cfg.shiftSrc = .vy → (0 : Byte) = State.reset.reg 2) ∧
    State.reset.cfg.shiftSrc = .vx ∧ (1 : Reg) ≠ VF := by
  decide

theorem witness_ShiftsSetTheBitShiftedOut_vy :
    let s := under .vy .w16 (regs [(2, 0xC0)])
    (s.cfg.shiftSrc = .vx → (0xC0 : Byte) = s.reg 1) ∧
    (s.cfg.shiftSrc = .vy → (0xC0 : Byte) = s.reg 2) ∧ s.cfg.shiftSrc = .vy := by
  decide

theorem witness_AddIndexByMode :
    (under .vx .w16 State.reset).cfg.addIMode = .w16 ∧
    (under .vx .w12 State.reset).cfg.addIMode = .w12 ∧
    (under .vx .w16Vf State.reset).cfg.addIMode = .w16Vf := by
  decide

theorem witness_BcdStoresThreeDigits :
    let s := { State.reset with i := 0xFFD }
    let s' := { State.reset with i := 0xFFE }
    MemOk s ∧ s.i.toNat + 2 ≤ 0xFFF ∧ MemOk s' ∧ s'.i.toNat + 2 > 0xFFF := by
  unfold MemOk; decide

theorem witness_StoreRegistersToMemory :
    let s := { State.reset with i := 0xFF0 }
    let s' := { State.reset with i := 0xFF1 }
    MemOk s ∧ s.i.toNat + (15 : Reg).val ≤ 0xFFF ∧ MemOk s' ∧ s'.i.toNat + (15 : Reg).val > 0xFFF := by
  unfold MemOk; decide

theorem witness_LoadRegistersFromMemory :
    ({ State.reset with i := 0xFF0 } : State).i.toNat + (15 : Reg).val ≤ 0xFFF ∧
    ({ State.reset with i := 0xFF1 } : State).i.toNat + (15 : Reg).val > 0xFFF := by
  decide

/-- A store of `V0`, `V1` to 0xFFE, where the next fetch reads: both its bytes are stored ones. -/
theorem witness_StoresAreSeenByTheNextFetch :
    ∃ s t : State, ∃ p : Word, MemOk s ∧ p.toNat + 1 ≤ 0xFFF ∧ s.halt = false ∧ t.halt = false ∧
      exec (.ldMemVx 1) s = .next t ∧ p.toNat = s.i.toNat + (0 : Reg).val ∧
      p.toNat + 1 = s.i.toNat + (1 : Reg).val :=
  ⟨{ regs [(0, 0x60), (1, 0x05)] with i := 0xFFE }, _, 0xFFE, rfl, by decide, rfl, rfl, rfl, by decide,
    by decide⟩

/-- The same store to 0x300: a fetch whose high byte lies before it and low byte in it, and one whose high
byte lies in it and low byte behind it. -/
theorem witness_StoresAreSeenByTheNextFetch_edges :
    ∃ s t : State, MemOk s ∧ s.halt = false ∧ t.halt = false ∧ exec (.ldMemVx 1) s = .next t ∧
      (0x2FF : Word).toNat < s.i.toNat ∧ (0x2FF : Word).toNat + 1 = s.i.toNat + (0 : Reg).val ∧
      (0x301 : Word).toNat = s.i.toNat + (1 : Reg).val ∧
      s.i.toNat + (1 : Reg).val < (0x301 : Word).toNat + 1 :=
  ⟨{ regs [(0, 0x60), (1, 0x05)] with i := 0x300 }, _, rfl, rfl, rfl, rfl, by decide, by decide,
    by decide, by decide⟩

/-- Three digits at 0x300: a fetch from the byte before them, from each of them, and the bytes that keep
their value on both sides. -/
theorem witness_StoresAreSeenByTheNextFetch_bcd :
    ∃ s t : State, MemOk s ∧ s.halt = false ∧ t.halt = false ∧ exec (.ldBVx 0) s = .next t ∧
      (0x2FF : Word).toNat < s.i.toNat ∧ (0x2FF : Word).toNat + 1 = s.i.toNat ∧
      (0x300 : Word).toNat = s.i.toNat ∧ (0x300 : Word).toNat + 1 = s.i.toNat + 1 ∧
      (0x301 : Word).toNat = s.i.toNat + 1 ∧ (0x301 : Word).toNat + 1 = s.i.toNat + 2 ∧
      (0x302 : Word).toNat = s.i.toNat + 2 ∧ s.i.toNat + 2 < (0x302 : Word).toNat + 1 :=
  ⟨{ regs [(0, 0xFE)] with i := 0x300 }, _, rfl, rfl, rfl, rfl, by decide, by decide, by decide, by decide,
    by decide, by decide, by decide, by decide⟩

/-- The longest program: a fetch from the byte before it, from its last two bytes, and of a one-byte program
from its only byte, the next one old. -/
theorem witness_StoresAreSeenByTheNextFetch_load :
    (List.replicate 3584 (0xAB : Byte)).length ≤ 3584 ∧
    (∃ t, applyEvent (.loadProgram (List.replicate 3584 0xAB)) State.reset = .next t) ∧
    (0x1FF : Word).toNat < 0x200 ∧ (0x1FF : Word).toNat + 1 = 0x200 + 0 ∧
    (0xFFE : Word).toNat = 0x200 + 3582 ∧ (0xFFE : Word).toNat + 1 = 0x200 + 3583 ∧
    (0x200 : Word).toNat = 0x200 + 0 ∧ 0x200 + [(0x60 : Byte)].length ≤ (0x200 : Word).toNat + 1 :=
  ⟨by rw [List.length_replicate], ⟨_, rfl⟩, by decide, by decide, by decide, by decide, by decide,
    by decide⟩

/-- A sprite whose last row is at 0xFFF, one row more, and no row at all from an I beyond memory. -/
theorem witness_DrwXorsTheWrappedSprite :
    let s := { State.reset with i := 0xFF1 }
    let s' := { State.reset with i := 0xFF2 }
    15 ≤ 15 ∧ (15 = 0 ∨ s.i.toNat + 15 - 1 ≤ 0xFFF) ∧ 15 > 0 ∧ s'.i.toNat + 15 - 1 > 0xFFF ∧
    (0 = 0 ∨ ({ State.reset with i := 0xFFFF } : State).i.toNat + 0 - 1 ≤ 0xFFF) := by
  decide

theorem witness_DrwTwiceRestoresTheFramebuffer :
    let s := { State.reset with i := 0xFF1 }
    15 ≤ 15 ∧ (0 : Reg) ≠ VF ∧ (14 : Reg) ≠ VF ∧ (15 = 0 ∨ s.i.toNat + 15 - 1 ≤ 0xFFF) := by
  decide

/-- Keys 8 and F fresh, the lower one wins; the highest key alone; none fresh. -/
theorem witness_WaitForKeySuspendsUntilAFreshKey :
    State.reset.halt = false ∧ LowestFresh State.reset.key 0x8100 8 ∧
    LowestFresh State.reset.key 0x8000 15 := by
  unfold LowestFresh; decide

theorem witness_WaitForKeySuspendsUntilAFreshKey_none : NoFresh 0x0003 0x0002 := by
  intro j h
  by_cases hj : j < 16
  · revert h; revert hj; revert j; decide
  · rw [BitVec.getLsbD_of_ge _ _ (by omega)] at h; cases h

theorem witness_SetKeysReplacesKeysAndWakes :
    suspended.wait = true ∧ suspended.halt = false ∧ LowestFresh suspended.key 0x8100 8 ∧
    State.reset.wait = false ∧ stopped.halt = true := by
  unfold LowestFresh; decide

theorem witness_SuspensionProperties :
    suspended.wait = true ∧ applyEvent .reset suspended = .next suspended.resetEvent ∧
    suspended.resetEvent.wait = false := ⟨rfl, rfl, rfl⟩

theorem witness_EventsWriteOnlyTheirElements :
    applyEvent .step State.reset = .next stopped ∧
    applyEvent .tick State.reset = .next State.reset.tick ∧
    applyEvent (.setKeys 1) State.reset = .next (State.reset.setKeys 1) ∧ State.reset.wait = false ∧
    MemOk State.reset ∧ applyEvent (.loadProgram [1]) State.reset = .next (State.reset.loadProgram [1]) :=
  ⟨rfl, rfl, rfl, rfl, rfl, rfl⟩

/-- A suspended block without a fresh key, and a halted one with every key fresh. -/
theorem witness_EventsWriteOnlyTheirElements_keys :
    (∃ t, applyEvent (.setKeys 0x0002) { suspended with key := 0x0003 } = .next t) ∧
    NoFresh ({ suspended with key := 0x0003 } : State).key 0x0002 ∧
    (∃ t, applyEvent (.setKeys 0xFFFF) { suspended with halt := true } = .next t) ∧
    ({ suspended with halt := true } : State).halt = true :=
  ⟨⟨_, rfl⟩, witness_WaitForKeySuspendsUntilAFreshKey_none, ⟨_, rfl⟩, rfl⟩

/-- A load that is refused and one of the greatest length. -/
theorem witness_EventsWriteOnlyTheirElements_load :
    (∃ t, applyEvent (.loadProgram (List.replicate 3585 1)) State.reset = .next t) ∧
    (List.replicate 3585 (1 : Byte)).length > 3584 ∧ (List.replicate 3584 (1 : Byte)).length ≤ 3584 :=
  ⟨⟨_, rfl⟩, by rw [List.length_replicate]; decide, by rw [List.length_replicate]⟩

theorem witness_EventsKeepTheModelsFields :
    applyEvent .reset stopped = .next stopped.resetEvent ∧ Event.reset ≠ .step := ⟨rfl, by decide⟩

/-- Each plan of the host, with nothing listed. -/
theorem witness_UnlistedStepsAreFollowedByTheHostsEvents :
    ∀ plan : HostPlan, let s := { State.reset with host := plan }
    s.schedule = [] ∧ (s.host = .quiet → s.placed = []) ∧
    (s.host = .ticking → s.placed = List.replicate (Config.ticksAfter s.turns) .tick) ∧
    (s.host = .free → s.placed = Config.hostEvents s.turns) :=
  fun _ => ⟨rfl, placed_quiet, placed_ticking, placed_free⟩

/-- `Step` and `Tick` in turn without end. -/
def inTurn (n : Nat) : Event := if n % 2 = 0 then .step else .tick

/-- Fairness can be met. -/
theorem witness_FairTicksRunTheTimersOut :
    Fair inTurn ∧ (∀ n, inTurn n = .step ∨ inTurn n = .tick) ∧
    stopped.halt = true ∧ suspended.wait = true := by
  refine ⟨fun n => ⟨⟨2 * n, by omega, ?_⟩, 2 * n + 1, by omega, ?_⟩, fun n => ?_, rfl, rfl⟩
  · rw [inTurn, if_pos (by omega)]
  · rw [inTurn, if_neg (by omega)]
  · rw [inTurn]
    split
    · exact .inl rfl
    · exact .inr rfl

/-- An instruction that completes, and one that faults. -/
theorem witness_InstructionsWriteOnlyTheirElements :
    exec .cls State.reset = .next State.reset ∧ State.reset.halt = false ∧ assignsPc .cls = false ∧
    exec .ret { State.reset with pc := 0x202 } = .next (State.reset.halted .stackUnderflow 0x00EE 0x200) ∧
    ({ State.reset with pc := 0x202 } : State).halt = false ∧
    (State.reset.halted .stackUnderflow 0x00EE 0x200).halt = true :=
  ⟨rfl, rfl, rfl, rfl, rfl, rfl⟩

/-- A register that changes as the destination, and VF as the flag. -/
theorem witness_OnlyFlagProducersWriteVF :
    ∃ s t : State, s.halt = false ∧ exec (.addReg 1 2) s = .next t ∧ t.halt = false ∧
      t.reg 1 ≠ s.reg 1 ∧ t.reg VF ≠ s.reg VF ∧ writesFlag (.addReg 1 2) s.cfg.addIMode = true :=
  ⟨regs [(1, 0xC8), (2, 0x64)], _, rfl, rfl, rfl, by decide, by decide, rfl⟩

theorem witness_ParametersMatterOnlyWhereNamed :
    (under .vy .w12 State.reset).cfg.font = State.reset.cfg.font ∧
    (∀ x y, (Instr.shr 1 1 = .shr x y ∨ Instr.shr 1 1 = .shl x y) → x = y) ∧
    (∀ x, Instr.shr 1 1 ≠ .addIVx x) := by
  refine ⟨rfl, ?_, ?_⟩
  · rintro x y (h | h) <;> cases h
    rfl
  · intro x h; cases h

theorem witness_ParametersMatterOnlyWhereNamed_addI :
    (∀ x y, (Instr.addIVx 1 = .shr x y ∨ Instr.addIVx 1 = .shl x y) → x = y) ∧
    ({ regs [(1, 1)] with i := 0xFFE } : State).i.toNat
      + (({ regs [(1, 1)] with i := 0xFFE } : State).reg 1).toNat ≤ 0xFFF := by
  refine ⟨?_, by decide⟩
  rintro x y (h | h) <;> cases h

end Sys2Proof.Tests
end

/-! # Frames: what each update, each instruction and each event can write

The frame of every update of the state, composed into the frame of every instruction (`writeSet`) and of
every event (`eventWrites`), as spec/10_state.md R20 to R36 name the writers. -/

/-! ## Composing frames -/

namespace Sys2Proof.Statement

open Sys2Proof.Machine

variable {s t u : State} {es es' : List Elem}

theorem Same.refl (e : Elem) (s : State) : Same e s s := by
  cases e with
  | v | mem => exact fun _ => rfl
  | _ => exact rfl

theorem Same.trans {e : Elem} (h : Same e s t) (h' : Same e t u) : Same e s u := by
  cases e with
  | v | mem => exact fun a => (h' a).trans (h a)
  | _ => exact Eq.trans h' h

theorem OnlyChanges.refl (es : List Elem) (s : State) : OnlyChanges es s s :=
  fun e _ => Same.refl e s

theorem OnlyChanges.trans (h : OnlyChanges es s t) (h' : OnlyChanges es t u) : OnlyChanges es s u :=
  fun e he => (h e he).trans (h' e he)

theorem OnlyChanges.mono (h : OnlyChanges es s t) (hsub : es ⊆ es') : OnlyChanges es' s t :=
  fun e he => h e fun hmem => he (hsub hmem)

end Sys2Proof.Statement

namespace Sys2Proof.Machine

open Sys2Proof.Statement

variable {s t : State}

/-! ## The updates of the state

Element by element: it is listed, or the update's own law of Laws/State.lean says that it stays. -/

theorem setReg_onlyChanges (s : State) (x : Reg) (b : Byte) : OnlyChanges [.v] s (s.setReg x b) := by
  intro e he
  cases e <;> simp_all [Same]

theorem setFlag_onlyChanges (s : State) (flag : Bool) : OnlyChanges [.v] s (s.setFlag flag) :=
  setReg_onlyChanges s VF _

theorem setRegFlag_onlyChanges (s : State) (x : Reg) (b : Byte) (flag : Bool) :
    OnlyChanges [.v] s (s.setRegFlag x b flag) :=
  OnlyChanges.trans (setReg_onlyChanges s x b) (setFlag_onlyChanges _ flag)

theorem loadRegs_onlyChanges (s : State) (lo : Nat) (bytes : List Byte) :
    OnlyChanges [.v] s (loadRegs s lo bytes) := by
  induction bytes generalizing s lo with
  | nil => exact OnlyChanges.refl _ s
  | cons b rest ih =>
    rw [loadRegs]
    split
    · exact OnlyChanges.trans (setReg_onlyChanges s _ b) (ih _ _)
    · exact ih _ _

theorem setIndex_onlyChanges (s : State) (w : Word) : OnlyChanges [.i] s (s.setIndex w) := by
  intro e he
  cases e <;> simp_all [Same]

theorem setDelay_onlyChanges (s : State) (b : Byte) : OnlyChanges [.dt] s (s.setDelay b) := by
  intro e he
  cases e <;> simp_all [Same]

theorem setSound_onlyChanges (s : State) (b : Byte) : OnlyChanges [.st] s (s.setSound b) := by
  intro e he
  cases e <;> simp_all [Same]

theorem setFrame_onlyChanges (s : State) (fb : Framebuffer) : OnlyChanges [.fb] s (s.setFrame fb) := by
  intro e he
  cases e <;> simp_all [Same]

theorem jump_onlyChanges (s : State) (target : Word) : OnlyChanges [.pc] s (s.jump target) := by
  intro e he
  cases e <;> simp_all [Same]

theorem skipIf_onlyChanges (s : State) (test : Bool) : OnlyChanges [.pc] s (s.skipIf test) := by
  intro e he
  cases e <;> simp_all [Same]

theorem suspend_onlyChanges (s : State) (x : Reg) :
    OnlyChanges [.pc, .wait, .wreg] s (s.suspend x) := by
  intro e he
  cases e <;> simp_all [Same]

theorem countDraw_onlyChanges (s : State) : OnlyChanges [.draws] s s.countDraw := by
  intro e he
  cases e <;> simp_all [Same]

theorem halted_onlyChanges (s : State) (f : Fault) (op pc0 : Word) :
    OnlyChanges [.pc, .halt, .err] s (s.halted f op pc0) := by
  intro e he
  cases e <;> simp_all [Same]

theorem push_onlyChanges {w : Word} (h : s.push w = some t) : OnlyChanges [.stack, .sp] s t := by
  obtain ⟨_, rfl⟩ := State.push_eq_some.1 h
  intro e he
  cases e <;> simp_all [Same, State.reg, State.readByte]

theorem pop_onlyChanges {w : Word} (h : s.pop = some (w, t)) : OnlyChanges [.sp] s t := by
  obtain ⟨_, _, _, rfl⟩ := State.pop_eq_some.1 h
  intro e he
  cases e <;> simp_all [Same, State.reg, State.readByte]

theorem writeAll_onlyChanges (s : State) (base : Nat) (bytes : List Byte) :
    OnlyChanges [.mem] s { s with mem := Memory.writeAll s.cfg.font s.mem base bytes } := by
  intro e he
  cases e <;> simp_all [Same, State.reg]

theorem writeBlock_onlyChanges {base : Nat} {bytes : List Byte} (h : s.writeBlock base bytes = some t) :
    OnlyChanges [.mem] s t := by
  obtain ⟨_, rfl⟩ := State.writeBlock_eq_some.1 h
  exact writeAll_onlyChanges s base bytes

/-! ## The instructions -/

/-- A fault writes within every set that holds PC, HALT and ERR (60_exceptions.md R167). -/
theorem raise_onlyChanges {es : List Elem} {f : Fault} {op pc0 : Word} (h : raise f op pc0 s = .next t)
    (hsub : [.pc, .halt, .err] ⊆ es) : OnlyChanges es s t := by
  cases h
  exact (halted_onlyChanges s f op pc0).mono hsub

theorem execRet_onlyChanges (h : execRet s = .next t) : OnlyChanges [.sp, .pc, .halt, .err] s t := by
  rw [execRet] at h
  split at h
  next => exact raise_onlyChanges h (by simp)
  next target s' hp =>
    cases h
    exact ((pop_onlyChanges hp).mono (by simp)).trans ((jump_onlyChanges s' target).mono (by simp))

theorem execCall_onlyChanges {nnn : Addr} (h : execCall nnn s = .next t) :
    OnlyChanges [.stack, .sp, .pc, .halt, .err] s t := by
  rw [execCall] at h
  split at h
  next => exact raise_onlyChanges h (by simp)
  next s' hp =>
    cases h
    exact ((push_onlyChanges hp).mono (by simp)).trans ((jump_onlyChanges s' _).mono (by simp))

theorem execDrw_onlyChanges {x y : Reg} {n : Nat} (h : execDrw x y n s = .next t) :
    OnlyChanges [.v, .fb, .pc, .halt, .err] s t := by
  rw [execDrw] at h
  split at h
  next => exact raise_onlyChanges h (by simp)
  next =>
    cases h
    exact ((setFrame_onlyChanges s _).mono (by simp)).trans ((setFlag_onlyChanges _ _).mono (by simp))

theorem execAddIVx_onlyChanges {x : Reg} (h : execAddIVx x s = .next t) : OnlyChanges [.i, .v] s t := by
  have hindex (w : Word) : OnlyChanges [.i, .v] s (s.setIndex w) :=
    (setIndex_onlyChanges s w).mono (by simp)
  simp only [execAddIVx] at h
  split at h <;> cases h
  next => exact hindex _
  next => exact hindex _
  next => exact (hindex _).trans ((setFlag_onlyChanges _ _).mono (by simp))

theorem execLdVxMem_onlyChanges {x : Reg} (h : execLdVxMem x s = .next t) :
    OnlyChanges [.v, .pc, .halt, .err] s t := by
  rw [execLdVxMem] at h
  split at h
  next => exact raise_onlyChanges h (by simp)
  next bytes _ =>
    cases h
    exact (loadRegs_onlyChanges s 0 bytes).mono (by simp)

/-- Every instruction writes within its write set, faults included. -/
theorem exec_onlyChanges {i : Instr} (h : exec i s = .next t) : OnlyChanges (writeSet i) s t := by
  cases i with
  | ret => exact execRet_onlyChanges h
  | call => exact execCall_onlyChanges h
  | drw => exact execDrw_onlyChanges h
  | addIVx => exact execAddIVx_onlyChanges h
  | ldBVx | ldMemVx =>
    simp only [exec, execLdBVx, execLdMemVx] at h
    split at h
    next => exact raise_onlyChanges h (by simp [writeSet])
    next s' hw =>
      cases h
      exact (writeBlock_onlyChanges hw).mono (by simp [writeSet])
  | ldVxMem => exact execLdVxMem_onlyChanges h
  | cls => cases h; exact setFrame_onlyChanges _ _
  | jp | jpV0 => cases h; exact jump_onlyChanges _ _
  | seByte | sneByte | seReg | sneReg | skp | sknp => cases h; exact skipIf_onlyChanges _ _
  | ldByte | addByte | ldReg | orReg | andReg | xorReg | ldVxDt => cases h; exact setReg_onlyChanges _ _ _
  | addReg | sub | shr | subn | shl => cases h; exact setRegFlag_onlyChanges _ _ _ _
  | ldI | ldFVx => cases h; exact setIndex_onlyChanges _ _
  | ldVxK => cases h; exact suspend_onlyChanges _ _
  | ldDtVx => cases h; exact setDelay_onlyChanges _ _
  | ldStVx => cases h; exact setSound_onlyChanges _ _
  | rnd x =>
    cases h
    exact ((setReg_onlyChanges s x _).mono (by simp [writeSet])).trans
      ((countDraw_onlyChanges _).mono (by simp [writeSet]))

/-- RND alone draws, one byte (41_alu.md R121). -/
theorem exec_draws {i : Instr} (h : exec i s = .next t) :
    t.draws = s.draws ∨ t.draws = s.draws + 1 := by
  cases i with
  | rnd => cases h; exact .inr rfl
  | _ => exact .inl (exec_onlyChanges h .draws (by simp [writeSet]))

/-! ## The events -/

/-- The elements an event may write, as 10_state.md R36 lists them; `Reset` writes every element of the
block. -/
def eventWrites (e : Event) : List Elem :=
  match e with
  | .reset => [.v, .i, .pc, .sp, .stack, .dt, .st, .key, .fb, .mem, .wait, .wreg, .halt, .err]
  | .loadProgram _ => [.mem, .halt, .err]
  | .step => [.v, .i, .pc, .sp, .stack, .mem, .fb, .dt, .st, .wait, .wreg, .halt, .err, .draws]
  | .tick => [.dt, .st]
  | .setKeys _ => [.key, .v, .pc, .wait]

theorem resetEvent_onlyChanges (s : State) : OnlyChanges (eventWrites .reset) s s.resetEvent := by
  intro e he
  cases e <;> simp_all [Same, eventWrites, State.resetEvent]

/-- A refused program leaves PC as it is, so the refusal writes HALT and ERR alone (R165). -/
theorem loadProgram_onlyChanges (s : State) (bytes : List Byte) :
    OnlyChanges (eventWrites (.loadProgram bytes)) s (s.loadProgram bytes) := by
  rw [State.loadProgram]
  split_ifs
  · exact OnlyChanges.refl _ s
  · intro e he
    cases e <;> simp_all [Same, eventWrites]
  · exact (writeAll_onlyChanges s progBase bytes).mono (by simp [eventWrites])

theorem tick_onlyChanges (s : State) : OnlyChanges (eventWrites .tick) s s.tick := by
  intro e he
  cases e <;> simp_all [Same, eventWrites, State.tick, State.reg, State.readByte]

theorem keyWake_onlyChanges (s : State) (fresh : BitVec 16) :
    OnlyChanges [.v, .pc, .wait] s (s.keyWake fresh) := by
  rw [State.keyWake]
  split
  next j _ =>
    refine ((setReg_onlyChanges s s.wreg (BitVec.ofNat 8 j.val)).mono (by simp)).trans fun e he => ?_
    cases e <;> simp_all [Same, State.readByte, State.skip, State.jump]
  next => exact OnlyChanges.refl _ s

theorem setKeys_onlyChanges (s : State) (k : BitVec 16) :
    OnlyChanges (eventWrites (.setKeys k)) s (s.setKeys k) := by
  have hkey : OnlyChanges (eventWrites (.setKeys k)) s { s with key := k } := by
    intro e he
    cases e <;> simp_all [Same, eventWrites, State.readByte]
  rw [State.setKeys]
  split_ifs
  · exact hkey.trans ((keyWake_onlyChanges _ _).mono (by simp [eventWrites]))
  · exact hkey

theorem writeSet_subset_eventWrites_step (i : Instr) : writeSet i ⊆ eventWrites .step := by
  cases i <;> simp [writeSet, eventWrites]

theorem cycle_onlyChanges (h : cycle s = .next t) : OnlyChanges (eventWrites .step) s t := by
  obtain ⟨-, rfl⟩ | ⟨-, -, rfl⟩ | ⟨op, e, -, -, -, rfl⟩ | ⟨op, i, -, -, -, hexec⟩ := cycle_cases h
  · exact OnlyChanges.refl _ _
  · exact (halted_onlyChanges _ _ _ _).mono (by simp [eventWrites])
  · exact (halted_onlyChanges _ _ _ _).mono (by simp [eventWrites])
  · have hadvance : OnlyChanges [.pc] s s.advance := jump_onlyChanges _ _
    exact (hadvance.mono (by simp [eventWrites])).trans
      ((exec_onlyChanges hexec).mono (writeSet_subset_eventWrites_step i))

/-- Every event writes within its elements. -/
theorem applyEvent_onlyChanges {e : Event} (h : applyEvent e s = .next t) :
    OnlyChanges (eventWrites e) s t := by
  cases e with
  | reset => cases h; exact resetEvent_onlyChanges s
  | loadProgram bytes => cases h; exact loadProgram_onlyChanges s bytes
  | step => exact cycle_onlyChanges h
  | tick => cases h; exact tick_onlyChanges s
  | setKeys k => cases h; exact setKeys_onlyChanges s k

/-- A `Step` draws one byte at most: it draws only in the instruction it executes. -/
theorem cycle_draws (h : cycle s = .next t) : t.draws = s.draws ∨ t.draws = s.draws + 1 := by
  obtain ⟨-, rfl⟩ | ⟨-, -, rfl⟩ | ⟨op, e, -, -, -, rfl⟩ | ⟨op, i, -, -, -, hexec⟩ := cycle_cases h
  · exact .inl rfl
  · exact .inl rfl
  · exact .inl rfl
  · simpa using exec_draws hexec

theorem eventWrites_disjoint_modelFields (e : Event) :
    (eventWrites e).Disjoint [.cfg, .host, .schedule, .turns] := by
  cases e <;> simp [eventWrites]

theorem draws_notMem_eventWrites {e : Event} (he : e ≠ .step) : .draws ∉ eventWrites e := by
  cases e <;> simp_all [eventWrites]

/-- Settles O52: the model's own fields stand in no event's frame, the draw counter in that of `Step`
alone, where the executed instruction raises it by at most one. -/
theorem eventsKeepTheModelsFields : Obligations.EventsKeepTheModelsFields := by
  intro e s t h
  have hframe := applyEvent_onlyChanges h
  have hkept (f : Elem) (hf : f ∈ [.cfg, .host, .schedule, .turns]) : Same f s t :=
    hframe f fun hmem => eventWrites_disjoint_modelFields e hmem hf
  have hdraws (he : e ≠ .step) : t.draws = s.draws := hframe .draws (draws_notMem_eventWrites he)
  refine ⟨hkept .cfg (by simp), hkept .host (by simp), hkept .schedule (by simp),
    hkept .turns (by simp), hdraws, ?_⟩
  by_cases he : e = .step
  · subst he
    exact cycle_draws h
  · exact .inl (hdraws he)

end Sys2Proof.Machine

namespace Sys2Proof.Machine

open Sys2Proof.Statement

/-! ## SetKeys with and without a key wake -/

theorem replaceKey_onlyChanges (s : State) (k : BitVec 16) : OnlyChanges [.key] s { s with key := k } := by
  intro e he
  cases e <;> simp_all [Same, State.reg, State.readByte]

/-- Without a fresh key the wake test finds no key (60_exceptions.md R173). -/
theorem lowestKey_freshKeys_of_noFresh {old k : BitVec 16} (h : NoFresh old k) :
    lowestKey (freshKeys old k) = none := by
  rw [lowestKey, List.find?_eq_none]
  intro j _ hj
  simp only [freshKeys, BitVec.getLsbD_and, BitVec.getLsbD_not, Bool.and_eq_true,
    Bool.not_eq_true'] at hj
  obtain ⟨hpressed, -, hnew⟩ := hj
  exact Bool.false_ne_true (hnew.symm.trans (h j.val hpressed))

/-- Without a key wake a `SetKeys` replaces KEY and does nothing more. -/
theorem setKeys_of_noWake {s : State} {k : BitVec 16}
    (h : s.wait = false ∨ s.halt = true ∨ NoFresh s.key k) : s.setKeys k = { s with key := k } := by
  rcases h with hwait | hhalt | hfresh
  · simp [State.setKeys, hwait]
  · simp [State.setKeys, hhalt]
  · simp [State.setKeys, State.keyWake, lowestKey_freshKeys_of_noFresh hfresh]

theorem keyWake_onlyReg (s : State) (fresh : BitVec 16) : OnlyReg s.wreg s (s.keyWake fresh) := by
  intro r hr
  rw [State.keyWake]
  split
  next j _ => exact (State.reg_setReg s s.wreg r _).trans (if_neg hr)
  next => rfl

/-- Of the registers, a `SetKeys` writes V[WREG] at most (10_state.md R36). -/
theorem setKeys_onlyReg (s : State) (k : BitVec 16) : OnlyReg s.wreg s (s.setKeys k) := by
  rw [State.setKeys]
  split_ifs
  · exact keyWake_onlyReg { s with key := k } _
  · exact fun _ _ => rfl

/-! ## LoadProgram, copied and refused (70_reset_and_hazards.md R191) -/

theorem loadProgram_of_fits (s : State) {bytes : List Byte} (h : bytes.length ≤ maxRom) :
    s.loadProgram bytes = { s with mem := Memory.writeAll s.cfg.font s.mem progBase bytes } := by
  rw [State.loadProgram, if_neg (by omega)]

theorem readByte_loadProgram_of_refused (s : State) {bytes : List Byte} (h : bytes.length > maxRom)
    (a : Nat) : (s.loadProgram bytes).readByte a = s.readByte a := by
  rw [State.loadProgram, if_pos h]
  split
  · rfl
  · exact State.halted_readByte s _ _ _ a

/-- No program reaches below 0x200, neither a copied nor a refused one. -/
theorem readByte_loadProgram_below {s : State} (hmem : MemOk s) (bytes : List Byte) {a : Nat}
    (ha : a < progBase) : (s.loadProgram bytes).readByte a = s.readByte a := by
  by_cases hfit : bytes.length ≤ maxRom
  · have hrange : progBase + bytes.length ≤ memSize := by
      simp only [maxRom, memSize, progBase] at hfit ⊢
      omega
    rw [loadProgram_of_fits s hfit]
    exact (Memory.read_writeAll hmem (.inr hrange)).trans (if_neg (by omega))
  · exact readByte_loadProgram_of_refused s (by omega) a

/-- Settles O51: every event's frame, and for `SetKeys` and `LoadProgram` what narrows it in each case: the
wake, or none; the copy, or the refusal. -/
theorem eventsWriteOnlyTheirElements : Obligations.EventsWriteOnlyTheirElements := by
  intro s t
  refine ⟨applyEvent_onlyChanges, applyEvent_onlyChanges, fun k h => ?_, fun bytes hmem h => ?_⟩
  · have hframe : OnlyChanges [.key, .v, .pc, .wait] s t := applyEvent_onlyChanges h
    cases h
    refine ⟨hframe, setKeys_onlyReg s k, fun hnoWake => ?_⟩
    rw [setKeys_of_noWake hnoWake]
    exact replaceKey_onlyChanges s k
  · have hframe : OnlyChanges [.mem, .halt, .err] s t := applyEvent_onlyChanges h
    cases h
    refine ⟨hframe, fun a ha => readByte_loadProgram_below hmem bytes ha,
      fun hlong a => readByte_loadProgram_of_refused s hlong a, fun hfit => ?_⟩
    rw [loadProgram_of_fits s hfit]
    exact writeAll_onlyChanges s progBase bytes

end Sys2Proof.Machine

namespace Sys2Proof.Machine

/-! ## The fetch (20_memory.md R53) -/

theorem wordOfBytes_high (hi lo : Byte) : (wordOfBytes hi lo).toNat / 256 = hi.toNat := by
  rw [toNat_wordOfBytes]
  omega

theorem wordOfBytes_low (hi lo : Byte) : (wordOfBytes hi lo).toNat % 256 = lo.toNat := by
  rw [toNat_wordOfBytes]
  omega

/-- Settles O8: a fetchable PC, odd or even, fetches the word of its two bytes, whose quotient and remainder
by 256 are those bytes. -/
theorem fetchIsBigEndianAtAnyPc : Obligations.FetchIsBigEndianAtAnyPc := by
  intro s hpc
  exact ⟨_, fetchWord_eq_some.2 ⟨hpc, rfl⟩, wordOfBytes_high _ _, wordOfBytes_low _ _⟩

end Sys2Proof.Machine

/-! # Control transfer and the invariant

The invariant of the machine (`State.Inv`) is kept by every update, hence by every instruction, every event
and every step; then the meanings of RET, CALL, the jumps and the compares (spec/40_flow.md). -/

namespace Sys2Proof.Machine

variable {s t : State}

/-! ## The values that instructions write to PC and I -/

theorem toNat_zext16 (nnn : Addr) : (zext16 nnn).toNat = nnn.toNat := by
  simp only [zext16, BitVec.toNat_setWidth]
  omega

/-- The sum of `JP V0,addr` never wraps: nnn + V0 is at most 0x10FE (10_state.md R23). -/
theorem toNat_indexedTarget (nnn : Addr) (b : Byte) :
    (indexedTarget nnn b).toNat = nnn.toNat + b.toNat := by
  rw [indexedTarget, BitVec.toNat_add, toNat_zext16, BitVec.toNat_setWidth]
  omega

/-- Mode W12 reduces the sum to twelve bits; the other modes leave the bound of I aside. -/
theorem indexSum_lt {mode : AddIMode} (i : Word) (b : Byte) (hmode : mode = .w12) :
    (indexSum mode i b).toNat < 4096 := by
  subst hmode
  simp only [indexSum, BitVec.toNat_ofNat]
  omega

/-- A glyph address is at most 0x050 + 5 * 255. -/
theorem glyphAddr_lt (b : Byte) : (glyphAddr b).toNat < 4096 := by
  rw [glyphAddr, BitVec.toNat_ofNat]
  exact (Nat.mod_le _ _).trans_lt (by simp only [fontBase]; omega)

/-! ## The invariant under the updates of the state

An update that touches no element the invariant reads hands its fields on unchanged. -/

namespace State.Inv

theorem setReg (h : s.Inv) (x : Reg) (b : Byte) : (s.setReg x b).Inv := { h with }

theorem setFlag (h : s.Inv) (flag : Bool) : (s.setFlag flag).Inv := h.setReg VF _

theorem setRegFlag (h : s.Inv) (x : Reg) (b : Byte) (flag : Bool) : (s.setRegFlag x b flag).Inv :=
  (h.setReg x b).setFlag flag

theorem loadRegs (h : s.Inv) (lo : Nat) (bytes : List Byte) : (loadRegs s lo bytes).Inv := by
  rw [loadRegs_eq]
  exact { h with }

theorem setDelay (h : s.Inv) (b : Byte) : (s.setDelay b).Inv := { h with }

theorem setSound (h : s.Inv) (b : Byte) : (s.setSound b).Inv := { h with }

theorem setFrame (h : s.Inv) (fb : Framebuffer) : (s.setFrame fb).Inv := { h with }

theorem countDraw (h : s.Inv) : s.countDraw.Inv := { h with }

theorem tick (h : s.Inv) : s.tick.Inv := { h with }

theorem replaceKey (h : s.Inv) (k : BitVec 16) : ({ s with key := k } : State).Inv := { h with }

theorem replaceSchedule (h : s.Inv) (events : List Event) :
    ({ s with schedule := events } : State).Inv := { h with }

theorem openTurn (h : s.Inv) : s.openTurn.Inv := { h with }

/-- I keeps the bound of mode W12 (10_state.md R22). -/
theorem setIndex {w : Word} (h : s.Inv) (hw : s.cfg.addIMode = .w12 → w.toNat < 4096) :
    (s.setIndex w).Inv :=
  { h with indexBound := hw }

/-- The only writes of memory are inside the space, and keep its canonical form. -/
theorem writeAll {base : Nat} {bytes : List Byte} (h : s.Inv)
    (hrange : bytes = [] ∨ base + bytes.length ≤ memSize) :
    ({ s with mem := Memory.writeAll s.cfg.font s.mem base bytes } : State).Inv :=
  { h with memWf := Memory.wf_writeAll h.memWf hrange }

theorem writeBlock {base : Nat} {bytes : List Byte} (h : s.Inv) (hw : s.writeBlock base bytes = some t) :
    t.Inv := by
  obtain ⟨hrange, rfl⟩ := State.writeBlock_eq_some.1 hw
  exact h.writeAll (hrange.imp_left List.length_eq_zero_iff.1)

/-- PC moves only in a running block, where no suspended PC and no ERR.pc is to be kept. -/
theorem jump {target : Word} (h : s.Inv) (hrun : s.running = true) (htarget : target.toNat ≤ 0x10FE) :
    (s.jump target).Inv := by
  obtain ⟨hhalt, hwait⟩ := running_iff.1 hrun
  exact { h with
    pcBound := htarget
    waitPc := by simp [hwait]
    errPc := by simp [hhalt] }

/-- A pushed return address keeps the bound of the stack entries (40_flow.md R103). -/
theorem push {w : Word} (h : s.Inv) (hw : w.toNat ≤ 0x1000) (hpush : s.push w = some t) : t.Inv := by
  obtain ⟨_, rfl⟩ := State.push_eq_some.1 hpush
  refine { h with stackBound := fun k => ?_ }
  rw [Vector.getElem_set]
  split
  · exact hw
  · exact h.stackBound k

theorem pop {w : Word} (h : s.Inv) (hpop : s.pop = some (w, t)) : t.Inv := by
  obtain ⟨_, _, _, rfl⟩ := State.pop_eq_some.1 hpop
  exact { h with }

/-- A popped return address is an entry of the stack. -/
theorem pop_le {w : Word} (h : s.Inv) (hpop : s.pop = some (w, t)) : w.toNat ≤ 0x1000 := by
  obtain ⟨hlt, _, rfl, _⟩ := State.pop_eq_some.1 hpop
  exact h.stackBound ⟨_, hlt⟩

/-- A fault writes HALT, ERR and PC together; a suspended block takes none but a refused program. -/
theorem halted {f : Fault} {op pc0 : Word} (h : s.Inv) (hpc : pc0.toNat ≤ 0x10FE)
    (hwait : s.wait = true → f = .romTooLarge ∧ pc0 = s.pc)
    (hword : f = .outOfBoundsFetch ∨ f = .romTooLarge → op = 0) : (s.halted f op pc0).Inv where
  memWf := h.memWf
  pcBound := hpc
  stackBound := h.stackBound
  waitPc hw := (hwait hw).2 ▸ h.waitPc hw
  haltErr := rfl
  noFault := by simp
  errPc _ := rfl
  errWord := by simpa using hword
  haltWait _ hw := congrArg some (hwait hw).1
  indexBound := h.indexBound

end State.Inv

/-! ## The invariant under an instruction -/

/-- A state in which step 4 of the instruction cycle begins (30_encoding.md R70): the block runs, and PC is
two above a fetchable address. -/
structure State.Executing (s : State) : Prop where
  inv : s.Inv
  run : s.running = true
  pcLower : 2 ≤ s.pc.toNat
  pcUpper : s.pc.toNat ≤ 0x1000

/-- The cycle executes an instruction in such a state only. -/
theorem State.Inv.advance_executing {op : Word} (h : s.Inv) (hrun : s.running = true)
    (hfetch : s.fetchWord = some op) : s.advance.Executing := by
  obtain ⟨hpc, -⟩ := fetchWord_eq_some.1 hfetch
  have hadv : s.advance.pc.toNat = s.pc.toNat + 2 := by
    rw [State.advance_pc]
    bv_omega
  exact ⟨h.jump hrun (by change s.advance.pc.toNat ≤ _; omega), hrun, by omega, by omega⟩

namespace State.Executing

/-- The address of the executing instruction was fetched. -/
theorem instrAddr_le (h : s.Executing) : s.instrAddr.toNat ≤ 0xFFE := by
  obtain ⟨-, -, hlower, hupper⟩ := h
  rw [State.instrAddr]
  bv_omega

theorem jump (h : s.Executing) {target : Word} (htarget : target.toNat ≤ 0x10FE) :
    (s.jump target).Inv :=
  h.inv.jump h.run htarget

theorem skipIf (h : s.Executing) (test : Bool) : (s.skipIf test).Inv := by
  cases test with
  | false => exact h.inv
  | true =>
    have hupper := h.pcUpper
    exact h.jump (by bv_omega)

/-- The suspended PC is the fetched address of the `LD Vx,K` (10_state.md R23). -/
theorem suspend (h : s.Executing) (x : Reg) : (s.suspend x).Inv := by
  have haddr := h.instrAddr_le
  obtain ⟨hhalt, -⟩ := running_iff.1 h.run
  exact { h.inv with
    pcBound := haddr.trans (by decide)
    waitPc := fun _ => haddr
    errPc := by simp [hhalt]
    haltWait := by simp [hhalt] }

/-- A fault of an instruction, which is neither a failed fetch nor a refused program. -/
theorem raise {f : Fault} {op : Word} (h : s.Executing)
    (hf : ¬ (f = .outOfBoundsFetch ∨ f = .romTooLarge)) (hraise : raise f op s.instrAddr s = .next t) :
    t.Inv := by
  cases hraise
  obtain ⟨-, hwait⟩ := running_iff.1 h.run
  exact h.inv.halted (h.instrAddr_le.trans (by decide)) (by simp [hwait]) fun hor => absurd hor hf

end State.Executing

theorem execRet_inv (h : s.Executing) (hexec : execRet s = .next t) : t.Inv := by
  rw [execRet] at hexec
  split at hexec
  next => exact h.raise (by decide) hexec
  next target s' hpop =>
    cases hexec
    have hrun : s'.running = true := by
      obtain ⟨_, _, _, rfl⟩ := State.pop_eq_some.1 hpop
      exact h.run
    exact (h.inv.pop hpop).jump hrun ((h.inv.pop_le hpop).trans (by decide))

theorem execCall_inv {nnn : Addr} (h : s.Executing) (hexec : execCall nnn s = .next t) : t.Inv := by
  rw [execCall] at hexec
  split at hexec
  next => exact h.raise (by decide) hexec
  next s' hpush =>
    cases hexec
    have hrun : s'.running = true := by
      obtain ⟨_, rfl⟩ := State.push_eq_some.1 hpush
      exact h.run
    refine (h.inv.push h.pcUpper hpush).jump hrun ?_
    rw [toNat_zext16]
    omega

theorem execDrw_inv {x y : Reg} {n : Nat} (h : s.Executing) (hexec : execDrw x y n s = .next t) :
    t.Inv := by
  rw [execDrw] at hexec
  split at hexec
  next => exact h.raise (by decide) hexec
  next => cases hexec; exact (h.inv.setFrame _).setFlag _

theorem execAddIVx_inv {x : Reg} (h : s.Inv) (hexec : execAddIVx x s = .next t) : t.Inv := by
  have hindex : (s.setIndex (indexSum s.cfg.addIMode s.i (s.reg x))).Inv := h.setIndex (indexSum_lt _ _)
  simp only [execAddIVx] at hexec
  split at hexec <;> cases hexec
  next => exact hindex
  next => exact hindex
  next => exact hindex.setFlag _

theorem execLdVxMem_inv {x : Reg} (h : s.Executing) (hexec : execLdVxMem x s = .next t) : t.Inv := by
  rw [execLdVxMem] at hexec
  split at hexec
  next => exact h.raise (by decide) hexec
  next => cases hexec; exact h.inv.loadRegs _ _

/-- Every instruction keeps the invariant, faults included. -/
theorem exec_inv {i : Instr} (h : s.Executing) (hexec : exec i s = .next t) : t.Inv := by
  cases i with
  | ret => exact execRet_inv h hexec
  | call => exact execCall_inv h hexec
  | drw => exact execDrw_inv h hexec
  | addIVx => exact execAddIVx_inv h.inv hexec
  | ldBVx | ldMemVx =>
    simp only [exec, execLdBVx, execLdMemVx] at hexec
    split at hexec
    next => exact h.raise (by decide) hexec
    next s' hw => cases hexec; exact h.inv.writeBlock hw
  | ldVxMem => exact execLdVxMem_inv h hexec
  | cls => cases hexec; exact h.inv.setFrame _
  | jp nnn =>
    cases hexec
    refine h.jump ?_
    rw [toNat_zext16]
    omega
  | jpV0 nnn =>
    cases hexec
    refine h.jump ?_
    rw [toNat_indexedTarget]
    omega
  | seByte | sneByte | seReg | sneReg | skp | sknp => cases hexec; exact h.skipIf _
  | ldByte | addByte | ldReg | orReg | andReg | xorReg | ldVxDt => cases hexec; exact h.inv.setReg _ _
  | addReg | sub | shr | subn | shl => cases hexec; exact h.inv.setRegFlag _ _ _
  | ldI nnn =>
    cases hexec
    refine h.inv.setIndex fun _ => ?_
    rw [toNat_zext16]
    omega
  | ldFVx => cases hexec; exact h.inv.setIndex fun _ => glyphAddr_lt _
  | ldVxK => cases hexec; exact h.suspend _
  | ldDtVx => cases hexec; exact h.inv.setDelay _
  | ldStVx => cases hexec; exact h.inv.setSound _
  | rnd => cases hexec; exact (h.inv.setReg _ _).countDraw

/-! ## The invariant under an event -/

theorem cycle_inv (h : s.Inv) (hcycle : cycle s = .next t) : t.Inv := by
  obtain ⟨-, rfl⟩ | ⟨hrun, -, rfl⟩ | ⟨op, e, hrun, -, -, rfl⟩ | ⟨op, i, hrun, hfetch, -, hexec⟩ :=
    cycle_cases hcycle
  · exact h
  · exact h.halted h.pcBound (by simp [(running_iff.1 hrun).2]) fun _ => rfl
  · exact h.halted h.pcBound (by simp [(running_iff.1 hrun).2]) (by simp)
  · exact exec_inv (h.advance_executing hrun hfetch) hexec

theorem loadProgram_inv (h : s.Inv) (bytes : List Byte) : (s.loadProgram bytes).Inv := by
  rw [State.loadProgram]
  split_ifs with hlong
  · exact h
  · exact h.halted h.pcBound (fun _ => ⟨rfl, rfl⟩) fun _ => rfl
  · refine h.writeAll (.inr ?_)
    simp only [maxRom, memSize, progBase] at hlong ⊢
    omega

/-- The wake leaves the `LD Vx,K`, whose address was fetched, for the instruction after it. -/
theorem keyWake_inv (h : s.Inv) (hhalt : s.halt = false) (hwait : s.wait = true) (fresh : BitVec 16) :
    (s.keyWake fresh).Inv := by
  rw [State.keyWake]
  split
  next j _ =>
    have hpc := h.waitPc hwait
    exact { h.setReg s.wreg (BitVec.ofNat 8 j.val) with
      pcBound := by simp only [State.skip_pc, State.setReg_pc]; bv_omega
      waitPc := by simp
      errPc := by simp [hhalt]
      haltWait := by simp }
  next => exact h

theorem setKeys_inv (h : s.Inv) (k : BitVec 16) : (s.setKeys k).Inv := by
  rw [State.setKeys]
  split_ifs with hwake
  · obtain ⟨hwait, hhalt⟩ : s.wait = true ∧ s.halt = false := by simpa using hwake
    exact keyWake_inv (h.replaceKey k) hhalt hwait _
  · exact h.replaceKey k

theorem resetEvent_inv (s : State) : s.resetEvent.Inv where
  memWf := rfl
  pcBound := (by decide : State.reset.pc.toNat ≤ 0x10FE)
  stackBound := (by decide : ∀ k : Fin 16, State.reset.stack[k.val].toNat ≤ 0x1000)
  waitPc := nofun
  haltErr := rfl
  noFault _ := rfl
  errPc := nofun
  errWord := nofun
  haltWait := nofun
  indexBound _ := (by decide : State.reset.i.toNat < 4096)

/-- Every event keeps the invariant. -/
theorem applyEvent_inv {e : Event} (h : s.Inv) (hevent : applyEvent e s = .next t) : t.Inv := by
  cases e with
  | reset => cases hevent; exact resetEvent_inv s
  | loadProgram bytes => cases hevent; exact loadProgram_inv h bytes
  | step => exact cycle_inv h hevent
  | tick => cases hevent; exact h.tick
  | setKeys k => cases hevent; exact setKeys_inv h k

/-- Settles O16: a step is an instruction cycle when nothing is listed, else the event listed first, and
both keep the invariant. -/
theorem invariantKeptByEveryStep : Obligations.InvariantKeptByEveryStep := by
  intro s t h hstep
  rcases hsched : s.schedule with _ | ⟨e, rest⟩
  · rw [step_idleSchedule hsched] at hstep
    exact cycle_inv h.openTurn hstep
  · rw [step_event hsched] at hstep
    exact applyEvent_inv (h.replaceSchedule rest) hstep

end Sys2Proof.Machine

namespace Sys2Proof

open Sys2Proof.Statement

/-! ## The decoder on an encoded instruction (30_encoding.md R74 to R76) -/

/-- Decoding finds every well-formed instruction in its own word. -/
theorem decode_encode {i : Instr} (h : WellFormed i = true) : decode (encode i) = .ok i := by
  cases i with
  | cls | ret => rfl
  | drw x y n =>
    have hn : n ≤ 15 := by simpa [WellFormed] using h
    simp [encode, decode, Nat.mod_eq_of_lt (show n < 16 by omega)]
  | seReg => simp [encode, decode, decodeFamily5]
  | ldReg | orReg | andReg | xorReg | addReg | sub | shr | subn | shl =>
    simp [encode, decode, decodeFamily8]
  | sneReg => simp [encode, decode, decodeFamily9]
  | skp | sknp => simp [encode, decode, decodeFamilyE]
  | ldVxDt | ldVxK | ldDtVx | ldStVx | addIVx | ldFVx | ldBVx | ldMemVx | ldVxMem =>
    simp [encode, decode, decodeFamilyF]
  | _ => simp [encode, decode]

/-- The number of an instruction's word settles its encoding both ways. -/
theorem encodedAs_of_toNat {i : Instr} {w : Nat} (hwf : WellFormed i = true)
    (hw : (encode i).toNat = w) : EncodedAs i w := by
  have henc : BitVec.ofNat 16 w = encode i := by rw [← hw, BitVec.ofNat_toNat, BitVec.setWidth_eq]
  exact ⟨henc ▸ decode_encode hwf, henc.symm⟩

end Sys2Proof

namespace Sys2Proof.Statement

open Sys2Proof.Machine

/-- A listed element that has come back to its value need not be listed. -/
theorem OnlyChanges.tail {s t : State} {e : Elem} {es : List Elem} (h : OnlyChanges (e :: es) s t)
    (hsame : Same e s t) : OnlyChanges es s t := by
  intro e' he'
  by_cases heq : e' = e
  · exact heq ▸ hsame
  · exact h e' (by simp [heq, he'])

end Sys2Proof.Statement

namespace Sys2Proof.Machine

open Sys2Proof.Statement

variable {s t : State}

/-! ## RET and CALL (40_flow.md R101, R103) -/

/-- What a raise leaves (60_exceptions.md R167). -/
theorem raise_haltedBy (f : Fault) (op pc0 : Word) (s : State) :
    ∃ t, raise f op pc0 s = .next t ∧ HaltedBy s t f op pc0 :=
  ⟨_, rfl, rfl, rfl, rfl, halted_onlyChanges s f op pc0⟩

theorem execRet_pops {k : Fin 16} (hsp : s.sp.val = k.val + 1) :
    ∃ t, execRet s = .next t ∧ t.sp.val = k.val ∧ t.pc = s.stack[k.val] ∧ OnlyChanges [.sp, .pc] s t := by
  have hpop : s.pop = some (s.stack[k.val], { s with sp := ⟨k.val, by omega⟩ }) :=
    State.pop_eq_some.2 ⟨by omega, by omega, by simp [hsp], by simp [hsp]⟩
  refine ⟨_, by rw [execRet, hpop], rfl, rfl, ?_⟩
  exact ((pop_onlyChanges hpop).mono (by simp)).trans ((jump_onlyChanges _ _).mono (by simp))

theorem execRet_underflow (hsp : s.sp.val = 0) :
    ∃ t, execRet s = .next t ∧ HaltedBy s t .stackUnderflow (encode .ret) (s.pc - 2) := by
  rw [execRet, State.pop_eq_none.2 hsp]
  exact raise_haltedBy _ _ _ s

theorem execCall_pushes (nnn : Addr) {k : Fin 16} (hsp : s.sp.val = k.val) :
    ∃ t, execCall nnn s = .next t ∧ t.stack[k.val] = s.pc ∧
      (∀ j : Fin 16, j ≠ k → t.stack[j.val] = s.stack[j.val]) ∧
      t.sp.val = k.val + 1 ∧ t.pc = zext16 nnn ∧ OnlyChanges [.stack, .sp, .pc] s t := by
  have hpush : s.push s.pc =
      some { s with stack := s.stack.set k.val s.pc, sp := ⟨k.val + 1, by omega⟩ } :=
    State.push_eq_some.2 ⟨by omega, by simp [hsp]⟩
  refine ⟨_, by rw [execCall, hpush], ?_, ?_, rfl, rfl, ?_⟩
  · exact Vector.getElem_set_self _
  · intro j hj
    exact Vector.getElem_set_ne k.isLt j.isLt fun hval => hj (Fin.ext hval.symm)
  · exact ((push_onlyChanges hpush).mono (by simp)).trans ((jump_onlyChanges _ _).mono (by simp))

theorem execCall_overflow (nnn : Addr) (hsp : s.sp.val = 16) :
    ∃ t, execCall nnn s = .next t ∧ HaltedBy s t .stackOverflow (encode (.call nnn)) (s.pc - 2) := by
  rw [execCall, State.push_eq_none.2 hsp]
  exact raise_haltedBy _ _ _ s

/-- Settles O22, by the two answers of a pop. -/
theorem retPopsThePc : Obligations.RetPopsThePc :=
  ⟨encodedAs_of_toNat rfl rfl, fun _ => ⟨fun _ => execRet_pops, execRet_underflow⟩⟩

/-- Settles O23, by the two answers of a push. -/
theorem callPushesThePc : Obligations.CallPushesThePc := by
  intro nnn s
  have henc : EncodedAs (.call nnn) (0x2000 + nnn.toNat) :=
    encodedAs_of_toNat rfl (toNat_formatNNN 0x2 nnn)
  refine ⟨henc, fun k hk => ?_, fun hfull => ?_⟩
  · obtain ⟨t, hexec, hpushed, hkept, hsp, hpc, hframe⟩ := execCall_pushes nnn hk
    exact ⟨t, hexec, hpushed, hkept, hsp, hpc ▸ toNat_zext16 nnn, hframe⟩
  · rw [← henc.2]
    exact execCall_overflow nnn hfull

/-! ## Jumps and compares (40_flow.md R102, R104 to R108) -/

/-- Settles O24: the two targets as numbers. -/
theorem jumpsSetThePc : Obligations.JumpsSetThePc := by
  intro nnn s
  exact ⟨encodedAs_of_toNat rfl (toNat_formatNNN 0x1 nnn),
    encodedAs_of_toNat rfl (toNat_formatNNN 0xB nnn),
    ⟨_, rfl, toNat_zext16 nnn, jump_onlyChanges s _⟩,
    ⟨_, rfl, toNat_indexedTarget nnn _, jump_onlyChanges s _⟩⟩

/-- A skip on equality, the bytes compared as numbers. -/
theorem pc_skipIf_beq (s : State) (a b : Byte) :
    (s.skipIf (a == b)).pc = if a.toNat = b.toNat then s.pc + 2 else s.pc := by
  simp [BitVec.toNat_eq]

/-- A skip on inequality: the branches of a skip on equality exchanged. -/
theorem pc_skipIf_bne (s : State) (a b : Byte) :
    (s.skipIf (a != b)).pc = if a.toNat = b.toNat then s.pc else s.pc + 2 := by
  simp [BitVec.toNat_eq]

/-- Settles O25: each compare is a skip on equality or on inequality. -/
theorem comparesSkipOneInstruction : Obligations.ComparesSkipOneInstruction := by
  intro x y kk s
  exact ⟨encodedAs_of_toNat rfl (toNat_formatXKK 0x3 x kk),
    encodedAs_of_toNat rfl (toNat_formatXKK 0x4 x kk),
    encodedAs_of_toNat rfl (toNat_formatXYN 0x5 x y 0x0),
    encodedAs_of_toNat rfl (toNat_formatXYN 0x9 x y 0x0),
    ⟨_, rfl, pc_skipIf_beq s _ _, skipIf_onlyChanges s _⟩,
    ⟨_, rfl, pc_skipIf_bne s _ _, skipIf_onlyChanges s _⟩,
    ⟨_, rfl, pc_skipIf_beq s _ _, skipIf_onlyChanges s _⟩,
    ⟨_, rfl, pc_skipIf_bne s _ _, skipIf_onlyChanges s _⟩⟩

/-! ## Nested CALLs and RETs (95_test_vectors.md E5) -/

theorem advance_onlyChanges (s : State) : OnlyChanges [.pc] s s.advance := jump_onlyChanges s _

/-- The first instruction of a sequence, then the others. -/
theorem runInstrs_cons {i : Instr} (h : exec i s.advance = .next t) (rest : List Instr) :
    runInstrs (i :: rest) s = runInstrs rest t := by
  change exec i { s with pc := s.pc + 2 } = .next t at h
  rw [runInstrs, h]

/-- A sequence cut in two. -/
theorem runInstrs_append {is rest : List Instr} (h : runInstrs is s = .next t) :
    runInstrs (is ++ rest) s = runInstrs rest t := by
  induction is generalizing s with
  | nil =>
    cases h
    rfl
  | cons i is ih =>
    simp only [List.cons_append, runInstrs] at h ⊢
    split at h
    · exact ih h
    · cases h
    · cases h

/-- The CALLs of a chain, and as many RETs. -/
def callChain (targets : List Addr) : List Instr :=
  targets.map .call ++ List.replicate targets.length .ret

/-- The chain nests: its first CALL and its last RET enclose the rest of it. -/
theorem callChain_cons (nnn : Addr) (rest : List Addr) :
    callChain (nnn :: rest) = .call nnn :: (callChain rest ++ [.ret]) := by
  simp [callChain, List.replicate_succ']

/-- A chain of CALLs and RETs keeps SP and the entries below it, and a chain with a CALL comes back to the
address after it: the enclosed chain leaves the address pushed, which the last RET pops. -/
theorem runInstrs_callChain (targets : List Addr) (s : State)
    (hroom : s.sp.val + targets.length ≤ 16) :
    ∃ t, runInstrs (callChain targets) s = .next t ∧ (targets ≠ [] → t.pc = s.pc + 2) ∧ t.sp = s.sp ∧
      (∀ k : Fin 16, k.val < s.sp.val → t.stack[k.val] = s.stack[k.val]) ∧
      OnlyChanges [.pc, .stack] s t := by
  induction targets generalizing s with
  | nil => exact ⟨s, rfl, by simp, rfl, fun _ _ => rfl, OnlyChanges.refl _ s⟩
  | cons nnn rest ih =>
    rw [List.length_cons] at hroom
    obtain ⟨k, hk⟩ : ∃ k : Fin 16, s.sp.val = k.val := ⟨⟨s.sp.val, by omega⟩, rfl⟩
    obtain ⟨s₁, hcall, hpushed, hkept₁, hsp₁, -, hframe₁⟩ := execCall_pushes (s := s.advance) nnn hk
    obtain ⟨s₂, hrun, -, hsp₂, hkept₂, hframe₂⟩ := ih s₁ (by omega)
    obtain ⟨t, hret, hsp₃, hpc₃, hframe₃⟩ := execRet_pops (s := s₂.advance) (hsp₂ ▸ hsp₁)
    have hstack : t.stack = s₂.stack := hframe₃ .stack (by simp)
    have hsp : t.sp = s.sp := Fin.ext (hsp₃.trans hk.symm)
    refine ⟨t, ?_, fun _ => ?_, hsp, fun j hj => ?_, ?_⟩
    · rw [callChain_cons, runInstrs_cons (i := .call nnn) hcall, runInstrs_append hrun]
      exact runInstrs_cons (i := .ret) hret []
    · calc t.pc = s₂.stack[k.val] := hpc₃
        _ = s₁.stack[k.val] := hkept₂ k (by omega)
        _ = s.pc + 2 := hpushed
    · calc t.stack[j.val] = s₂.stack[j.val] := by rw [hstack]
        _ = s₁.stack[j.val] := hkept₂ j (by omega)
        _ = s.stack[j.val] := hkept₁ j (by omega)
    · have hcalled : OnlyChanges [.sp, .pc, .stack] s s₁ :=
        ((advance_onlyChanges s).mono (by simp)).trans (hframe₁.mono (by simp))
      have hreturned : OnlyChanges [.sp, .pc, .stack] s₂ t :=
        ((advance_onlyChanges s₂).mono (by simp)).trans (hframe₃.mono (by simp))
      exact ((hcalled.trans (hframe₂.mono (by simp))).trans hreturned).tail hsp

/-- Settles O26: a chain of CALLs and RETs, with a CALL in it. -/
theorem callChainReturns : Obligations.CallChainReturns := by
  intro targets s hne hroom
  obtain ⟨t, hrun, hpc, hsp, hkept, hframe⟩ := runInstrs_callChain targets s hroom
  exact ⟨t, hrun, hpc hne, hsp, hkept, hframe⟩

end Sys2Proof.Machine

/-! # Registers and arithmetic

The meanings of spec/41_alu.md: each is one write of Vx, or a write of Vx and then of VF as the flag (R122).
So what the two writes leave is said once, the results and flags as numbers once, and each statement puts the
two together. At the end, which registers any instruction writes (10_state.md R20, R21). -/

namespace Sys2Proof

open Sys2Proof.Statement

/-- The word of an instruction of format XY as the opcode map writes it, its two fixed nibbles taken
together (30_encoding.md R76). -/
theorem encodedAs_of_formatXYN {i : Instr} {x y : Reg} {fixed : Nat} (top n : BitVec 4)
    (hwf : WellFormed i = true) (henc : encode i = formatXYN top x y n)
    (hfixed : 4096 * top.toNat + n.toNat = fixed) :
    EncodedAs i (fixed + 256 * x.val + 16 * y.val) := by
  refine encodedAs_of_toNat hwf ?_
  rw [henc, toNat_formatXYN]
  omega

end Sys2Proof

namespace Sys2Proof.Machine

open Sys2Proof.Statement

variable {s t : State}

/-! ## What the writes of a result and of a flag leave -/

theorem setReg_onlyReg (s : State) (x : Reg) (b : Byte) : OnlyReg x s (s.setReg x b) :=
  fun r hr => (State.reg_setReg s x r b).trans (if_neg hr)

theorem setFlag_onlyReg (s : State) (flag : Bool) : OnlyReg VF s (s.setFlag flag) :=
  setReg_onlyReg s VF _

theorem setRegFlag_onlyRegAndFlag (s : State) (x : Reg) (b : Byte) (flag : Bool) :
    OnlyRegAndFlag x s (s.setRegFlag x b flag) := by
  intro r hx hvf
  rw [State.reg_setRegFlag, if_neg hvf, if_neg hx]

@[simp] theorem State.reg_setFlag_VF (s : State) (flag : Bool) : (s.setFlag flag).reg VF = flagByte flag :=
  State.reg_setReg_same s VF _

@[simp] theorem State.reg_setRegFlag_VF (s : State) (x : Reg) (b : Byte) (flag : Bool) :
    (s.setRegFlag x b flag).reg VF = flagByte flag :=
  State.reg_setFlag_VF _ flag

/-- The result stays in Vx unless the flag, written last, goes there too. -/
theorem State.reg_setRegFlag_dest {x : Reg} (s : State) (b : Byte) (flag : Bool) (hx : x ≠ VF) :
    (s.setRegFlag x b flag).reg x = b := by
  rw [State.reg_setRegFlag, if_neg hx, if_pos rfl]

/-! ## The results as numbers (41_alu.md R123) -/

theorem toNat_addMod (a b : Byte) : (addMod a b).toNat = (a.toNat + b.toNat) % 256 := by
  simp [addMod]

/-- The two branches of the subtraction are the one residue of the difference modulo 256. -/
theorem toNat_subMod (a b : Byte) : ((subMod a b).toNat : Int) = (a.toNat - b.toNat : Int) % 256 := by
  rw [subMod]
  split
  all_goals
    rw [BitVec.toNat_ofNat]
    omega

theorem toNat_shiftRightOne (b : Byte) : (shiftRightOne b).toNat = b.toNat / 2 := by
  simp [shiftRightOne, Nat.shiftRight_eq_div_pow]

theorem toNat_shiftLeftOne (b : Byte) : (shiftLeftOne b).toNat = b.toNat * 2 % 256 := by
  simp [shiftLeftOne, Nat.shiftLeft_eq]

/-! ## The flags as numbers (10_state.md R21) -/

theorem toNat_flagByte_decide (p : Prop) [Decidable p] :
    (flagByte (decide p)).toNat = if p then 1 else 0 := by
  by_cases hp : p <;> simp [hp]

theorem toNat_flagByte_le_one (flag : Bool) : (flagByte flag).toNat ≤ 1 := by
  cases flag <;> decide

/-- A flag that tests one bit, written as a remainder by two, has that bit as its number. -/
theorem toNat_flagByte_bit (n : Nat) : (flagByte (decide (n % 2 = 1))).toNat = n % 2 := by
  rw [toNat_flagByte_decide]
  split <;> omega

theorem shiftedOutRight_eq (b : Byte) : shiftedOutRight b = decide (b.toNat % 2 = 1) := by
  simp [shiftedOutRight, BitVec.toNat_eq, Nat.and_one_is_mod]

theorem toNat_shiftedOutRight (b : Byte) : (flagByte (shiftedOutRight b)).toNat = b.toNat % 2 := by
  rw [shiftedOutRight_eq, toNat_flagByte_bit]

/-- Bit 7 is bit 0 of the byte shifted right by seven. -/
theorem shiftedOutLeft_eq (b : Byte) : shiftedOutLeft b = decide (b.toNat / 128 % 2 = 1) := by
  have hbit : (b &&& 0x80) >>> 7 = (b >>> 7) &&& 1 := BitVec.ushiftRight_and_distrib b 0x80 7
  rw [shiftedOutLeft, hbit]
  simp [BitVec.toNat_eq, Nat.shiftRight_eq_div_pow, Nat.and_one_is_mod]

/-- A byte has no bit above bit 7, so its quotient by 128 is that bit. -/
theorem toNat_shiftedOutLeft (b : Byte) : (flagByte (shiftedOutLeft b)).toNat = b.toNat / 128 := by
  rw [shiftedOutLeft_eq, toNat_flagByte_bit]
  omega

/-! ## Loads, and the addition of a byte (41_alu.md R110 to R112) -/

/-- Settles O28: both write Vx once. -/
theorem loadsSetVx : Obligations.LoadsSetVx := by
  intro x y kk s
  exact ⟨encodedAs_of_toNat rfl (toNat_formatXKK 0x6 x kk),
    encodedAs_of_toNat rfl (toNat_formatXYN 0x8 x y 0x0),
    ⟨_, rfl, State.reg_setReg_same s x _, setReg_onlyReg s x _, setReg_onlyChanges s x _⟩,
    ⟨_, rfl, State.reg_setReg_same s x _, setReg_onlyReg s x _, setReg_onlyChanges s x _⟩⟩

/-- Settles O29: one write of Vx, and none of the flag. -/
theorem addByteWrapsWithoutFlag : Obligations.AddByteWrapsWithoutFlag := by
  intro x kk s
  refine ⟨encodedAs_of_toNat rfl (toNat_formatXKK 0x7 x kk),
    _, rfl, ?_, setReg_onlyReg s x _, setReg_onlyChanges s x _⟩
  rw [State.reg_setReg_same, toNat_addMod]

/-! ## Logic (41_alu.md R113 to R115) -/

/-- Settles O30: one write of Vx each; a bit of it is the operation on the two bits. -/
theorem logicIsBitwise : Obligations.LogicIsBitwise := by
  intro x y s
  refine ⟨encodedAs_of_formatXYN 0x8 0x1 rfl rfl rfl,
    encodedAs_of_formatXYN 0x8 0x2 rfl rfl rfl,
    encodedAs_of_formatXYN 0x8 0x3 rfl rfl rfl,
    ⟨_, rfl, fun j => ?_, setReg_onlyReg s x _, setReg_onlyChanges s x _⟩,
    ⟨_, rfl, fun j => ?_, setReg_onlyReg s x _, setReg_onlyChanges s x _⟩,
    ⟨_, rfl, fun j => ?_, setReg_onlyReg s x _, setReg_onlyChanges s x _⟩⟩
  · rw [State.reg_setReg_same, BitVec.getLsbD_or]
  · rw [State.reg_setReg_same, BitVec.getLsbD_and]
  · rw [State.reg_setReg_same, BitVec.getLsbD_xor]

/-! ## Results with a flag (41_alu.md R116 to R120) -/

/-- Settles O31: the widened sum decides the flag, its residue is the result. -/
theorem addSetsTheCarry : Obligations.AddSetsTheCarry := by
  intro x y s
  refine ⟨encodedAs_of_formatXYN 0x8 0x4 rfl rfl rfl,
    _, rfl, fun hx => ?_, ?_, setRegFlag_onlyRegAndFlag s x _ _, setRegFlag_onlyChanges s x _ _⟩
  · rw [State.reg_setRegFlag_dest s _ _ hx, toNat_addMod]
  · rw [State.reg_setRegFlag_VF, carryOut, toNat_flagByte_decide]

/-- Settles O32: SUBN is SUB with the operands exchanged, the destination still Vx. -/
theorem subtractsSetNoBorrow : Obligations.SubtractsSetNoBorrow := by
  intro x y s
  refine ⟨encodedAs_of_formatXYN 0x8 0x5 rfl rfl rfl,
    encodedAs_of_formatXYN 0x8 0x7 rfl rfl rfl,
    ⟨_, rfl, fun hx => ?_, ?_, setRegFlag_onlyRegAndFlag s x _ _, setRegFlag_onlyChanges s x _ _⟩,
    ⟨_, rfl, fun hx => ?_, ?_, setRegFlag_onlyRegAndFlag s x _ _, setRegFlag_onlyChanges s x _ _⟩⟩
  · rw [State.reg_setRegFlag_dest s _ _ hx, toNat_subMod]
  · rw [State.reg_setRegFlag_VF, noBorrow, toNat_flagByte_decide]
  · rw [State.reg_setRegFlag_dest s _ _ hx, toNat_subMod]
  · rw [State.reg_setRegFlag_VF, noBorrow, toNat_flagByte_decide]

/-- The source of a shift, under either value of SHIFT_SRC. -/
theorem shiftSource_eq {x y : Reg} {src : Byte} (hvx : s.cfg.shiftSrc = .vx → src = s.reg x)
    (hvy : s.cfg.shiftSrc = .vy → src = s.reg y) : shiftSource s x y = src := by
  rw [shiftSource]
  split
  next h => exact (hvx h).symm
  next h => exact (hvy h).symm

/-- Settles O33: the shifted source is the quotient or the product by two, the bit shifted out its
remainder or its bit 7. -/
theorem shiftsSetTheBitShiftedOut : Obligations.ShiftsSetTheBitShiftedOut := by
  intro x y s src hvx hvy
  have hsrc : shiftSource s x y = src := shiftSource_eq hvx hvy
  refine ⟨encodedAs_of_formatXYN 0x8 0x6 rfl rfl rfl,
    encodedAs_of_formatXYN 0x8 0xE rfl rfl rfl,
    ⟨_, rfl, fun hx => ?_, ?_, setRegFlag_onlyRegAndFlag s x _ _, setRegFlag_onlyChanges s x _ _⟩,
    ⟨_, rfl, fun hx => ?_, ?_, setRegFlag_onlyRegAndFlag s x _ _, setRegFlag_onlyChanges s x _ _⟩⟩
  · rw [State.reg_setRegFlag_dest s _ _ hx, toNat_shiftRightOne, hsrc]
  · rw [State.reg_setRegFlag_VF, toNat_shiftedOutRight, hsrc]
  · rw [State.reg_setRegFlag_dest s _ _ hx, toNat_shiftLeftOne, hsrc]
  · rw [State.reg_setRegFlag_VF, toNat_shiftedOutLeft, hsrc]

/-! ## Random (41_alu.md R121) -/

/-- Settles O34: a write of Vx, then of the draw counter. -/
theorem randomIsAMaskedDraw : Obligations.RandomIsAMaskedDraw := by
  intro x kk s
  refine ⟨encodedAs_of_toNat rfl (toNat_formatXKK 0xC x kk),
    _, rfl, fun j => ?_, rfl, setReg_onlyReg s x _, exec_onlyChanges (i := .rnd x kk) rfl⟩
  rw [State.countDraw_reg, State.reg_setReg_same, BitVec.getLsbD_and]

/-! ## The registers each instruction writes (10_state.md R20, R21) -/

/-- All that DRW can do: the fault of its reads, or a new framebuffer and then the flag. -/
theorem execDrw_cases {x y : Reg} {n : Nat} (h : execDrw x y n s = .next t) :
    t = s.halted .outOfBoundsAccess (encode (.drw x y n)) s.instrAddr ∨
    ∃ fb flag, t = (s.setFrame fb).setFlag flag := by
  rw [execDrw] at h
  split at h <;> cases h
  next => exact .inl rfl
  next => exact .inr ⟨_, _, rfl⟩

/-- All that `ADD I,Vx` can do: a new I, and then the flag in mode W16_VF only. -/
theorem execAddIVx_cases {x : Reg} (h : execAddIVx x s = .next t) :
    (s.cfg.addIMode ≠ .w16Vf ∧ ∃ w, t = s.setIndex w) ∨
    (s.cfg.addIMode = .w16Vf ∧ ∃ w flag, t = (s.setIndex w).setFlag flag) := by
  simp only [execAddIVx] at h
  split at h <;> cases h
  next hmode => exact .inl ⟨by simp [hmode], _, rfl⟩
  next hmode => exact .inl ⟨by simp [hmode], _, rfl⟩
  next hmode => exact .inr ⟨hmode, _, _, rfl⟩

/-- `LD Vx,[I]` loads x + 1 bytes, so no register above Vx. -/
theorem execLdVxMem_reg_above {x r : Reg} (h : execLdVxMem x s = .next t) (hr : x.val < r.val) :
    t.reg r = s.reg r := by
  rw [execLdVxMem] at h
  split at h <;> cases h
  next => rfl
  next bytes hread =>
    obtain ⟨-, rfl⟩ := State.readBlock_eq_some.1 hread
    have hpast : (s.bytesFrom s.i.toNat (x.val + 1))[r.val - 0]? = none :=
      List.getElem?_eq_none (by rw [State.length_bytesFrom]; omega)
    rw [reg_loadRegs, hpast]
    simp

/-- A register that is no destination of the instruction, and not VF as its flag, keeps its value, in a
fault too. -/
theorem exec_keeps_reg {i : Instr} {r : Reg} (h : exec i s = .next t) (hdest : r ∉ destination i)
    (hflag : r = VF → writesFlag i s.cfg.addIMode = false) : t.reg r = s.reg r := by
  cases i with
  | ldByte x | addByte x | ldReg x | orReg x | andReg x | xorReg x | ldVxDt x | rnd x =>
    cases h
    exact setReg_onlyReg s x _ r (by simpa [destination] using hdest)
  | addReg x | sub x | shr x | subn x | shl x =>
    cases h
    exact setRegFlag_onlyRegAndFlag s x _ _ r (by simpa [destination] using hdest)
      (by simpa [writesFlag] using hflag)
  | drw =>
    obtain rfl | ⟨fb, flag, rfl⟩ := execDrw_cases h
    · rfl
    · exact setFlag_onlyReg (s.setFrame fb) flag r (by simpa [writesFlag] using hflag)
  | addIVx =>
    obtain ⟨-, w, rfl⟩ | ⟨hmode, w, flag, rfl⟩ := execAddIVx_cases h
    · rfl
    · exact setFlag_onlyReg (s.setIndex w) flag r (by simpa [writesFlag, hmode] using hflag)
  | ldVxMem x => exact execLdVxMem_reg_above h (by simpa [destination] using hdest)
  | _ => exact exec_onlyChanges h .v (by simp [writeSet]) r

/-- A flag producer that completes leaves a flag in VF, in place of a result written there. -/
theorem exec_reg_VF_of_writesFlag {i : Instr} (h : exec i s = .next t) (hhalt : t.halt = false)
    (hflag : writesFlag i s.cfg.addIMode = true) : ∃ flag, t.reg VF = flagByte flag := by
  cases i with
  | addReg | sub | shr | subn | shl => cases h; exact ⟨_, State.reg_setRegFlag_VF _ _ _ _⟩
  | drw =>
    obtain rfl | ⟨fb, flag, rfl⟩ := execDrw_cases h
    · cases hhalt
    · exact ⟨flag, State.reg_setFlag_VF _ flag⟩
  | addIVx =>
    obtain ⟨hmode, -⟩ | ⟨-, w, flag, rfl⟩ := execAddIVx_cases h
    · exact absurd (by simpa [writesFlag] using hflag) hmode
    · exact ⟨flag, State.reg_setFlag_VF _ flag⟩
  | _ => simp [writesFlag] at hflag

/-- Settles O57: a register that is neither kept its value; and what a flag producer leaves in VF is a
flag. -/
theorem onlyFlagProducersWriteVF : Obligations.OnlyFlagProducersWriteVF := by
  intro i s t _ hexec hhalt
  refine ⟨fun r hchanged => ?_, fun hflag => ?_⟩
  · by_contra hnot
    obtain ⟨hdest, hvf⟩ := not_or.1 hnot
    exact hchanged (exec_keeps_reg hexec hdest (by simpa using hvf))
  · obtain ⟨flag, hreg⟩ := exec_reg_VF_of_writesFlag hexec hhalt hflag
    exact hreg ▸ toNat_flagByte_le_one flag

end Sys2Proof.Machine

/-! # Index register and memory transfer

The meanings of spec/42_index_memory.md. A block access is in range or it is not, so its instruction
completes or raises OutOfBoundsAccess before any write (R136); what a stored block and a loaded one leave is
said once, byte by byte and register by register. -/

namespace Sys2Proof

open Sys2Proof.Statement

/-- The word of an instruction of format X as the opcode map writes it, its fixed digits taken together
(30_encoding.md R76). -/
theorem encodedAs_of_formatX {i : Instr} {x : Reg} {fixed : Nat} (top : BitVec 4) (sub : Byte)
    (hwf : WellFormed i = true) (henc : encode i = formatX top x sub)
    (hfixed : 4096 * top.toNat + sub.toNat = fixed) : EncodedAs i (fixed + 256 * x.val) := by
  refine encodedAs_of_toNat hwf ?_
  rw [henc, toNat_formatX]
  omega

end Sys2Proof

namespace Sys2Proof.Machine

open Sys2Proof.Statement

variable {s t : State}

/-! ## The values written to I (42_index_memory.md R131, R132) -/

theorem toNat_glyphAddr (b : Byte) : (glyphAddr b).toNat = 0x050 + 5 * b.toNat := by
  rw [glyphAddr, BitVec.toNat_ofNat]
  exact Nat.mod_eq_of_lt (by simp only [fontBase]; omega)

theorem toNat_indexSum_w16 (i : Word) (b : Byte) :
    (indexSum .w16 i b).toNat = (i.toNat + b.toNat) % 65536 := by
  simp [indexSum]

theorem toNat_indexSum_w12 (i : Word) (b : Byte) :
    (indexSum .w12 i b).toNat = (i.toNat + b.toNat) % 4096 := by
  rw [indexSum, BitVec.toNat_ofNat]
  omega

/-- Mode W16_VF gives I the sum of mode W16. -/
theorem toNat_indexSum_w16Vf (i : Word) (b : Byte) :
    (indexSum .w16Vf i b).toNat = (i.toNat + b.toNat) % 65536 :=
  toNat_indexSum_w16 i b

/-- Settles O35: both write I once. -/
theorem indexLoads : Obligations.IndexLoads := by
  intro x nnn s
  exact ⟨encodedAs_of_toNat rfl (toNat_formatNNN 0xA nnn), encodedAs_of_formatX 0xF 0x29 rfl rfl rfl,
    ⟨_, rfl, toNat_zext16 nnn, setIndex_onlyChanges s _⟩,
    ⟨_, rfl, toNat_glyphAddr _, setIndex_onlyChanges s _⟩⟩

/-! ## ADD I,Vx (42_index_memory.md R131) -/

theorem execAddIVx_w16 (x : Reg) (hmode : s.cfg.addIMode = .w16) :
    execAddIVx x s = .next (s.setIndex (indexSum .w16 s.i (s.reg x))) := by
  simp only [execAddIVx, hmode]

theorem execAddIVx_w12 (x : Reg) (hmode : s.cfg.addIMode = .w12) :
    execAddIVx x s = .next (s.setIndex (indexSum .w12 s.i (s.reg x))) := by
  simp only [execAddIVx, hmode]

theorem execAddIVx_w16Vf (x : Reg) (hmode : s.cfg.addIMode = .w16Vf) :
    execAddIVx x s = .next ((s.setIndex (indexSum .w16Vf s.i (s.reg x))).setFlag
      (indexOverflow s.i (s.reg x))) := by
  simp only [execAddIVx, hmode]

/-- Settles O36: in each mode its own clause, the other two being about other modes. -/
theorem addIndexByMode : Obligations.AddIndexByMode := by
  intro x s
  refine ⟨encodedAs_of_formatX 0xF 0x1E rfl rfl rfl, ?_⟩
  cases hmode : s.cfg.addIMode with
  | w16 =>
    exact ⟨_, execAddIVx_w16 x hmode,
      fun _ => ⟨toNat_indexSum_w16 _ _, setIndex_onlyChanges s _⟩, nofun, nofun⟩
  | w12 =>
    exact ⟨_, execAddIVx_w12 x hmode, nofun,
      fun _ => ⟨toNat_indexSum_w12 _ _, setIndex_onlyChanges s _⟩, nofun⟩
  | w16Vf =>
    have hexec := execAddIVx_w16Vf x hmode
    refine ⟨_, hexec, nofun, nofun, fun _ => ⟨toNat_indexSum_w16Vf _ _, ?_,
      setFlag_onlyReg (s.setIndex _) _, execAddIVx_onlyChanges hexec⟩⟩
    rw [State.reg_setFlag_VF, indexOverflow, toNat_flagByte_decide]

/-! ## The range check of a block, and what a stored block leaves (20_memory.md R52, R57) -/

theorem readBlock_of_fits {base len : Nat} (s : State) (hfit : base + len ≤ 0x1000) :
    s.readBlock base len = some (s.bytesFrom base len) :=
  State.readBlock_eq_some.2 ⟨.inr hfit, rfl⟩

theorem readBlock_beyond {base len : Nat} (s : State) (hlen : len ≠ 0) (hbeyond : base + len > 0x1000) :
    s.readBlock base len = none :=
  State.readBlock_eq_none.2 (not_or.2 ⟨hlen, Nat.not_le_of_gt hbeyond⟩)

theorem writeBlock_of_fits {base : Nat} {bytes : List Byte} (s : State)
    (hfit : base + bytes.length ≤ 0x1000) : ∃ t, s.writeBlock base bytes = some t :=
  ⟨_, State.writeBlock_eq_some.2 ⟨.inr hfit, rfl⟩⟩

theorem writeBlock_beyond {base : Nat} {bytes : List Byte} (s : State) (hlen : bytes.length ≠ 0)
    (hbeyond : base + bytes.length > 0x1000) : s.writeBlock base bytes = none :=
  State.writeBlock_eq_none.2 (not_or.2 ⟨hlen, Nat.not_le_of_gt hbeyond⟩)

/-- A byte after a block is stored from `base` on. -/
theorem readByte_writeBlock {base : Nat} {bytes : List Byte} (hmem : MemOk s)
    (hw : s.writeBlock base bytes = some t) (a : Nat) :
    t.readByte a = if base ≤ a then (bytes[a - base]?).getD (s.readByte a) else s.readByte a := by
  obtain ⟨hrange, rfl⟩ := State.writeBlock_eq_some.1 hw
  exact Memory.read_writeAll hmem (hrange.imp_left List.length_eq_zero_iff.1)

/-- Byte `k` of the block is read at `base + k`. -/
theorem readByte_writeBlock_stored {base k : Nat} {bytes : List Byte} {b : Byte} (hmem : MemOk s)
    (hw : s.writeBlock base bytes = some t) (hb : bytes[k]? = some b) : t.readByte (base + k) = b := by
  rw [readByte_writeBlock hmem hw, if_pos (Nat.le_add_right base k), Nat.add_sub_cancel_left, hb,
    Option.getD_some]

/-- Outside the block every byte is the old one. -/
theorem readByte_writeBlock_outside {base a : Nat} {bytes : List Byte} (hmem : MemOk s)
    (hw : s.writeBlock base bytes = some t) (ha : a < base ∨ base + bytes.length ≤ a) :
    t.readByte a = s.readByte a := by
  rw [readByte_writeBlock hmem hw]
  rcases ha with hbelow | habove
  · rw [if_neg (by omega)]
  · have hpast : bytes[a - base]? = none := List.getElem?_eq_none (by omega)
    rw [hpast, Option.getD_none, ite_self]

/-! ## LD B,Vx (42_index_memory.md R133, R136) -/

theorem execLdBVx_stores {x : Reg} (hw : s.writeBlock s.i.toNat (bcdDigits (s.reg x)) = some t) :
    execLdBVx x s = .next t := by
  rw [execLdBVx, hw]

theorem execLdBVx_beyond (x : Reg) (hbeyond : s.i.toNat + 2 > 0xFFF) :
    ∃ t, execLdBVx x s = .next t ∧
      HaltedBy s t .outOfBoundsAccess (encode (.ldBVx x)) (s.pc - 2) := by
  have hnone : s.writeBlock s.i.toNat (bcdDigits (s.reg x)) = none :=
    writeBlock_beyond s (by simp) (by rw [length_bcdDigits]; omega)
  rw [execLdBVx, hnone]
  exact raise_haltedBy _ _ _ s

/-- A number below 256 is the number of its byte. -/
theorem toNat_byteOfNat {n : Nat} (hn : n < 256) : (BitVec.ofNat 8 n).toNat = n := by
  rw [BitVec.toNat_ofNat]
  exact Nat.mod_eq_of_lt hn

/-- Settles O37: the three digits are a stored block; each is below 256. -/
theorem bcdStoresThreeDigits : Obligations.BcdStoresThreeDigits := by
  intro x s hmem
  have henc : EncodedAs (.ldBVx x) (0xF033 + 256 * x.val) := encodedAs_of_formatX 0xF 0x33 rfl rfl rfl
  refine ⟨henc, fun hfit => ?_, fun hbeyond => ?_⟩
  · obtain ⟨t, hw⟩ := writeBlock_of_fits (bytes := bcdDigits (s.reg x)) (base := s.i.toNat) s
      (by rw [length_bcdDigits]; omega)
    have hdigit {k n : Nat} (hn : n < 256) (hk : (bcdDigits (s.reg x))[k]? = some (BitVec.ofNat 8 n)) :
        (t.readByte (s.i.toNat + k)).toNat = n := by
      rw [readByte_writeBlock_stored hmem hw hk, toNat_byteOfNat hn]
    exact ⟨t, execLdBVx_stores hw, hdigit (k := 0) (by omega) rfl, hdigit (by omega) rfl,
      hdigit (by omega) rfl,
      fun a ha => readByte_writeBlock_outside hmem hw (by rw [length_bcdDigits]; omega),
      writeBlock_onlyChanges hw⟩
  · rw [← henc.2]
    exact execLdBVx_beyond x hbeyond

/-! ## LD [I],Vx (42_index_memory.md R134, R136) -/

theorem execLdMemVx_stores {x : Reg} (hw : s.writeBlock s.i.toNat (regsUpTo s x) = some t) :
    execLdMemVx x s = .next t := by
  rw [execLdMemVx, hw]

theorem execLdMemVx_beyond (x : Reg) (hbeyond : s.i.toNat + x.val > 0xFFF) :
    ∃ t, execLdMemVx x s = .next t ∧
      HaltedBy s t .outOfBoundsAccess (encode (.ldMemVx x)) (s.pc - 2) := by
  have hnone : s.writeBlock s.i.toNat (regsUpTo s x) = none :=
    writeBlock_beyond s (by simp) (by rw [length_regsUpTo]; omega)
  rw [execLdMemVx, hnone]
  exact raise_haltedBy _ _ _ s

/-- Settles O38: the registers are a stored block, byte `k` of it `V[k]`. -/
theorem storeRegistersToMemory : Obligations.StoreRegistersToMemory := by
  intro x s hmem
  have henc : EncodedAs (.ldMemVx x) (0xF055 + 256 * x.val) := encodedAs_of_formatX 0xF 0x55 rfl rfl rfl
  refine ⟨henc, fun hfit => ?_, fun hbeyond => ?_⟩
  · obtain ⟨t, hw⟩ := writeBlock_of_fits (bytes := regsUpTo s x) (base := s.i.toNat) s
      (by rw [length_regsUpTo]; omega)
    have hbyte (k : Reg) (hk : k.val ≤ x.val) : (regsUpTo s x)[k.val]? = some (s.reg k) := by
      rw [getElem?_regsUpTo, dif_pos hk]
    exact ⟨t, execLdMemVx_stores hw,
      fun k hk => readByte_writeBlock_stored hmem hw (hbyte k hk),
      fun a ha => readByte_writeBlock_outside hmem hw (by rw [length_regsUpTo]; omega),
      writeBlock_onlyChanges hw⟩
  · rw [← henc.2]
    exact execLdMemVx_beyond x hbeyond

/-! ## LD Vx,[I] (42_index_memory.md R135, R136) -/

theorem execLdVxMem_loads (x : Reg) (hfit : s.i.toNat + x.val ≤ 0xFFF) :
    execLdVxMem x s = .next (loadRegs s 0 (s.bytesFrom s.i.toNat (x.val + 1))) := by
  rw [execLdVxMem, readBlock_of_fits s (by omega)]

theorem execLdVxMem_beyond (x : Reg) (hbeyond : s.i.toNat + x.val > 0xFFF) :
    ∃ t, execLdVxMem x s = .next t ∧
      HaltedBy s t .outOfBoundsAccess (encode (.ldVxMem x)) (s.pc - 2) := by
  rw [execLdVxMem, readBlock_beyond s (Nat.succ_ne_zero _) (by omega)]
  exact raise_haltedBy _ _ _ s

/-- A register within the block loaded from V0 on holds the byte of its index. -/
theorem reg_loadRegs_bytesFrom {base len : Nat} {k : Reg} (hk : k.val < len) :
    (loadRegs s 0 (s.bytesFrom base len)).reg k = s.readByte (base + k.val) := by
  have hlen : k.val < (s.bytesFrom base len).length := by rwa [State.length_bytesFrom]
  rw [reg_loadRegs, if_pos (Nat.zero_le _), Nat.sub_zero, List.getElem?_eq_getElem hlen,
    State.getElem_bytesFrom, Option.getD_some]

/-- Settles O39: V0 to Vx from the block read, the registers above it kept. -/
theorem loadRegistersFromMemory : Obligations.LoadRegistersFromMemory := by
  intro x s
  have henc : EncodedAs (.ldVxMem x) (0xF065 + 256 * x.val) := encodedAs_of_formatX 0xF 0x65 rfl rfl rfl
  refine ⟨henc, fun hfit => ?_, fun hbeyond => ?_⟩
  · have hexec := execLdVxMem_loads x hfit
    exact ⟨_, hexec, fun k hk => reg_loadRegs_bytesFrom (Nat.lt_succ_of_le hk),
      fun k hk => execLdVxMem_reg_above hexec hk, loadRegs_onlyChanges s 0 _⟩
  · rw [← henc.2]
    exact execLdVxMem_beyond x hbeyond

end Sys2Proof.Machine

/-! # Display

The meanings of spec/43_display.md. DRW is one map of the framebuffer (R144): XOR with the wrapped image of
the sprite. That is proved piece by piece, a pixel, a row, all rows, each piece drawing an image of its own;
two pieces of one sprite never meet on a pixel, so their images join. -/

namespace Sys2Proof.Machine

open Sys2Proof.Statement

/-! ## Images and their drawing (43_display.md R143, R144) -/

/-- Some pixel of the grid is on in the framebuffer and in the image: the collision of R143. -/
def Collides (fb : Framebuffer) (img : Nat → Nat → Bool) : Prop :=
  ∃ px py, px < 64 ∧ py < 32 ∧ fb.pixel px py = true ∧ img px py = true

/-- From `acc` to `acc'` the blitter has drawn the image `img`: every pixel is XORed with the image, and the
flag has taken up whether the two collide. -/
structure Draws (img : Nat → Nat → Bool) (acc acc' : Blit) : Prop where
  pixel : ∀ px py, px < 64 → py < 32 → acc'.1.pixel px py = (acc.1.pixel px py ^^ img px py)
  flag : acc'.2 = true ↔ acc.2 = true ∨ Collides acc.1 img

theorem Collides.congr {fb fb' : Framebuffer} {img img' : Nat → Nat → Bool}
    (h : ∀ px py, px < 64 → py < 32 → (fb.pixel px py && img px py) = (fb'.pixel px py && img' px py)) :
    Collides fb img ↔ Collides fb' img' := by
  refine exists₂_congr fun px py => and_congr_right fun hx => and_congr_right fun hy => ?_
  rw [← Bool.and_eq_true, ← Bool.and_eq_true, h px py hx hy]

theorem Collides.or_iff {fb : Framebuffer} {img img' : Nat → Nat → Bool} :
    Collides fb (fun px py => img px py || img' px py) ↔ Collides fb img ∨ Collides fb img' := by
  simp only [Collides, Bool.or_eq_true, and_or_left, exists_or]

namespace Draws

variable {img img' : Nat → Nat → Bool} {a b c : Blit}

theorem congr (h : Draws img a b) (himg : ∀ px py, px < 64 → py < 32 → img px py = img' px py) :
    Draws img' a b where
  pixel px py hx hy := by rw [h.pixel px py hx hy, himg px py hx hy]
  flag := h.flag.trans
    (or_congr_right (Collides.congr fun px py hx hy => by rw [himg px py hx hy]))

/-- The empty image: nothing is drawn. -/
theorem empty (a : Blit) : Draws (fun _ _ => false) a a where
  pixel _ _ _ _ := (Bool.xor_false _).symm
  flag := by simp [Collides]

/-- Two images that share no pixel of the grid, drawn one after the other, are drawn as one: the second
finds the old pixels wherever it is on. -/
theorem trans (h : Draws img a b) (h' : Draws img' b c)
    (hapart : ∀ px py, px < 64 → py < 32 → img px py = true → img' px py = false) :
    Draws (fun px py => img px py || img' px py) a c where
  pixel px py hx hy := by
    rw [h'.pixel px py hx hy, h.pixel px py hx hy]
    cases himg : img px py with
    | false => simp
    | true => simp [hapart px py hx hy himg]
  flag := by
    have hold : Collides b.1 img' ↔ Collides a.1 img' := Collides.congr fun px py hx hy => by
      rw [h.pixel px py hx hy]
      cases himg : img px py with
      | false => simp
      | true => simp [hapart px py hx hy himg]
    rw [h'.flag, h.flag, hold, Collides.or_iff, or_assoc]

end Draws

/-! ## A sprite's bits on the grid (43_display.md R142) -/

/-- The image of sprite bits, given by row and column, whose origin is (`x0`, `y0`). -/
def wrapped (x0 y0 : Nat) (bits : Nat → Nat → Bool) (px py : Nat) : Bool :=
  bits ((py + 32 - y0) % 32) ((px + 64 - x0) % 64)

/-- The bits of one sprite row in the columns `cols`; bit 7 of the byte is column 0. -/
def rowBits (row : Nat) (cols : List Nat) (b : Byte) (r c : Nat) : Bool :=
  decide (r = row ∧ c ∈ cols) && b.getLsbD (7 - c)

/-- The bits of the sprite rows from `row` on; past the last one there are none. -/
def spriteBits (row : Nat) (sprite : List Byte) (r c : Nat) : Bool :=
  decide (row ≤ r ∧ c < 8) && (sprite[r - row]?.getD 0).getLsbD (7 - c)

theorem rowBits_eq_true {row : Nat} {cols : List Nat} {b : Byte} {r c : Nat} :
    rowBits row cols b r c = true ↔ (r = row ∧ c ∈ cols) ∧ b.getLsbD (7 - c) = true := by
  rw [rowBits, Bool.and_eq_true, decide_eq_true_eq]

theorem rowBits_cons_col {row col : Nat} {cols : List Nat} {b : Byte} (r c : Nat) :
    rowBits row (col :: cols) b r c = (rowBits row [col] b r c || rowBits row cols b r c) := by
  simp only [rowBits, List.mem_cons, List.not_mem_nil, or_false, and_or_left, Bool.decide_or,
    Bool.and_or_distrib_right]

theorem rowBits_disjoint_cols {row col : Nat} {cols : List Nat} {b : Byte} (hcol : col ∉ cols) {r c : Nat}
    (h : rowBits row [col] b r c = true) : rowBits row cols b r c = false := by
  obtain ⟨⟨-, hc⟩, -⟩ := rowBits_eq_true.1 h
  rw [List.mem_singleton] at hc
  simp [rowBits, hc, hcol]

theorem spriteBits_nil (row r c : Nat) : spriteBits row [] r c = false := by
  simp [spriteBits]

theorem spriteBits_cons (row : Nat) (b : Byte) (rest : List Byte) (r c : Nat) :
    spriteBits row (b :: rest) r c
      = (rowBits row [0, 1, 2, 3, 4, 5, 6, 7] b r c || spriteBits (row + 1) rest r c) := by
  have hcols : c ∈ [0, 1, 2, 3, 4, 5, 6, 7] ↔ c < 8 := List.mem_range (m := c) (n := 8)
  simp only [spriteBits, rowBits, hcols]
  rcases Nat.lt_trichotomy r row with hlt | rfl | hgt
  · simp [show ¬ row ≤ r by omega, show r ≠ row by omega, show ¬ row + 1 ≤ r by omega]
  · simp
  · have hidx : r - row = (r - (row + 1)) + 1 := by omega
    simp [show row ≤ r by omega, show r ≠ row by omega, show row + 1 ≤ r by omega, hidx]

theorem rowBits_disjoint_spriteBits {row : Nat} {cols : List Nat} {b : Byte} {rest : List Byte} {r c : Nat}
    (h : rowBits row cols b r c = true) : spriteBits (row + 1) rest r c = false := by
  obtain ⟨⟨hr, -⟩, -⟩ := rowBits_eq_true.1 h
  simp [spriteBits, hr]

/-- The image of the `n` bytes at I is the statements' image. -/
theorem wrapped_spriteBits_bytesFrom (s : State) (x0 y0 n : Nat) :
    wrapped x0 y0 (spriteBits 0 (s.bytesFrom s.i.toNat n)) = spriteImage s x0 y0 n := by
  funext px py
  simp only [wrapped, spriteBits, spriteImage]
  generalize (py + 32 - y0) % 32 = row
  by_cases hrow : row < n <;> simp [State.bytesFrom, hrow]

/-! ## The blitter (43_display.md R141) -/

variable {x0 y0 : Nat}

/-- A single sprite bit lands on one pixel. -/
theorem wrapped_rowBits_singleton (hx0 : x0 < 64) (hy0 : y0 < 32) {row col : Nat} (hrow : row < 32)
    (hcol : col < 64) (b : Byte) {px py : Nat} (hx : px < 64) (hy : py < 32) :
    wrapped x0 y0 (rowBits row [col] b) px py
      = (decide (px = (x0 + col) % 64 ∧ py = (y0 + row) % 32) && b.getLsbD (7 - col)) := by
  have hc : (px + 64 - x0) % 64 = col ↔ px = (x0 + col) % 64 := by omega
  have hr : (py + 32 - y0) % 32 = row ↔ py = (y0 + row) % 32 := by omega
  simp only [wrapped, rowBits, List.mem_singleton, ← hc, ← hr, and_comm]
  by_cases h : (px + 64 - x0) % 64 = col <;> simp [h]

theorem blitPixel_draws (hx0 : x0 < 64) (hy0 : y0 < 32) {row col : Nat} (hrow : row < 32) (hcol : col < 64)
    (b : Byte) (acc : Blit) :
    Draws (wrapped x0 y0 (rowBits row [col] b)) acc (blitPixel x0 y0 row b acc col) := by
  have himg {px py : Nat} := wrapped_rowBits_singleton hx0 hy0 hrow hcol b (px := px) (py := py)
  have hpx : (x0 + col) % 64 < 64 := Nat.mod_lt _ (by omega)
  have hpy : (y0 + row) % 32 < 32 := Nat.mod_lt _ (by omega)
  constructor
  case pixel =>
    intro px py hx hy
    rw [himg hx hy, blitPixel, Framebuffer.pixel_setPixel _ hpx hpy]
    split
    next h => simp [h]
    next h => simp [h]
  case flag =>
    rw [blitPixel, Bool.or_eq_true, Bool.and_eq_true]
    refine or_congr_right ⟨fun ⟨hold, hbit⟩ => ⟨_, _, hpx, hpy, hold, ?_⟩, ?_⟩
    · simpa [himg hpx hpy] using hbit
    · rintro ⟨px, py, hx, hy, hold, hon⟩
      rw [himg hx hy, Bool.and_eq_true, decide_eq_true_eq] at hon
      obtain ⟨⟨rfl, rfl⟩, hbit⟩ := hon
      exact ⟨hold, hbit⟩

theorem foldl_blitPixel_draws (hx0 : x0 < 64) (hy0 : y0 < 32) {row : Nat} (hrow : row < 32) (b : Byte)
    {cols : List Nat} (hnodup : cols.Nodup) (hcols : ∀ col ∈ cols, col < 64) (acc : Blit) :
    Draws (wrapped x0 y0 (rowBits row cols b)) acc (cols.foldl (blitPixel x0 y0 row b) acc) := by
  induction cols generalizing acc with
  | nil => exact (Draws.empty acc).congr fun _ _ _ _ => by simp [wrapped, rowBits]
  | cons col cols ih =>
    obtain ⟨hnew, hrest⟩ := List.nodup_cons.1 hnodup
    have hpixel := blitPixel_draws hx0 hy0 hrow (hcols col List.mem_cons_self) b acc
    have hfold := ih hrest (fun c hc => hcols c (List.mem_cons_of_mem col hc))
      (blitPixel x0 y0 row b acc col)
    exact (hpixel.trans hfold fun _ _ _ _ => rowBits_disjoint_cols hnew).congr
      fun _ _ _ _ => (rowBits_cons_col _ _).symm

theorem blitRow_draws (hx0 : x0 < 64) (hy0 : y0 < 32) {row : Nat} (hrow : row < 32) (b : Byte) (acc : Blit) :
    Draws (wrapped x0 y0 (rowBits row [0, 1, 2, 3, 4, 5, 6, 7] b)) acc (blitRow x0 y0 row b acc) :=
  foldl_blitPixel_draws hx0 hy0 hrow b (by decide) (by decide) acc

/-- Up to 32 rows are drawn as one image: no pixel is touched twice. -/
theorem blitRows_draws (hx0 : x0 < 64) (hy0 : y0 < 32) {row : Nat} {sprite : List Byte}
    (hrows : row + sprite.length ≤ 32) (acc : Blit) :
    Draws (wrapped x0 y0 (spriteBits row sprite)) acc (blitRows x0 y0 row sprite acc) := by
  induction sprite generalizing row acc with
  | nil => exact (Draws.empty acc).congr fun _ _ _ _ => (spriteBits_nil row _ _).symm
  | cons b rest ih =>
    rw [List.length_cons] at hrows
    have hfirst := blitRow_draws hx0 hy0 (row := row) (by omega) b acc
    have hrest := ih (row := row + 1) (by omega) (blitRow x0 y0 row b acc)
    exact (hfirst.trans hrest fun _ _ _ _ => rowBits_disjoint_spriteBits).congr
      fun _ _ _ _ => (spriteBits_cons row b rest _ _).symm

/-! ## CLS (43_display.md R140) -/

/-- Settles O41: the clear framebuffer is the new one. -/
theorem clsClearsTheFramebuffer : Obligations.ClsClearsTheFramebuffer :=
  ⟨encodedAs_of_toNat rfl rfl, fun s =>
    ⟨_, rfl, fun x y => Framebuffer.pixel_clear x y, setFrame_onlyChanges s _⟩⟩

/-! ## DRW (43_display.md R141, R144) -/

variable {s : State}

/-- What a DRW that completes leaves: the framebuffer drawn, and then the flag in VF. -/
def State.drawn (s : State) (blit : Blit) : State := (s.setFrame blit.1).setFlag blit.2

theorem State.drawn_fb (s : State) (blit : Blit) : (s.drawn blit).fb = blit.1 := rfl

theorem State.drawn_onlyReg (s : State) (blit : Blit) : OnlyReg VF s (s.drawn blit) :=
  setFlag_onlyReg (s.setFrame blit.1) blit.2

theorem State.drawn_onlyChanges (s : State) (blit : Blit) : OnlyChanges [.fb, .v] s (s.drawn blit) :=
  ((setFrame_onlyChanges s blit.1).mono (by simp)).trans ((setFlag_onlyChanges _ blit.2).mono (by simp))

/-- DRW changes neither I nor memory, so the sprite at I looks as before. -/
theorem spriteImage_drawn (s : State) (blit : Blit) : spriteImage (s.drawn blit) = spriteImage s := rfl

theorem State.reg_VF_drawn (s : State) (blit : Blit) : (s.drawn blit).reg VF = flagByte blit.2 :=
  State.reg_setFlag_VF _ _

theorem flagByte_eq_one_iff {flag : Bool} : flagByte flag = 1 ↔ flag = true := by
  cases flag <;> decide

theorem flagByte_zero_or_one (flag : Bool) : flagByte flag = 0 ∨ flagByte flag = 1 := by
  cases flag with
  | false => exact .inl rfl
  | true => exact .inr rfl

/-- A sprite that lies in memory is drawn as its wrapped image, and the collision is the flag. -/
theorem execDrw_draws (x y : Reg) {n : Nat} (hn : n ≤ 15) (hfit : n = 0 ∨ s.i.toNat + n - 1 ≤ 0xFFF) :
    ∃ blit : Blit,
      Draws (spriteImage s ((s.reg x).toNat % 64) ((s.reg y).toNat % 32) n) (s.fb, false) blit ∧
      execDrw x y n s = .next (s.drawn blit) := by
  have hread : s.readBlock s.i.toNat n = some (s.bytesFrom s.i.toNat n) :=
    State.readBlock_eq_some.2 ⟨hfit.imp_right (by intro h; simp only [memSize]; omega), rfl⟩
  refine ⟨_, ?_, by rw [execDrw, hread]; rfl⟩
  rw [← wrapped_spriteBits_bytesFrom]
  exact blitRows_draws (Nat.mod_lt _ (by omega)) (Nat.mod_lt _ (by omega))
    (by rw [State.length_bytesFrom]; omega) _

theorem execDrw_beyond (x y : Reg) {n : Nat} (hn : n > 0) (hbeyond : s.i.toNat + n - 1 > 0xFFF) :
    ∃ t, execDrw x y n s = .next t ∧
      HaltedBy s t .outOfBoundsAccess (encode (.drw x y n)) (s.pc - 2) := by
  rw [execDrw, readBlock_beyond s (by omega) (by omega)]
  exact raise_haltedBy _ _ _ s

/-- VF after a drawing from a cleared flag is the collision. -/
theorem Draws.reg_VF_drawn {img : Nat → Nat → Bool} {fb : Framebuffer} {blit : Blit}
    (h : Draws img (fb, false) blit) (s : State) : (s.drawn blit).reg VF = 1 ↔ Collides fb img := by
  rw [State.reg_VF_drawn, flagByte_eq_one_iff, h.flag]
  simp

theorem encodedAs_drw (x y : Reg) {n : Nat} (hn : n ≤ 15) :
    EncodedAs (.drw x y n) (0xD000 + 256 * x.val + 16 * y.val + n) := by
  refine encodedAs_of_toNat (decide_eq_true hn) ?_
  have hnibble : (BitVec.ofNat 4 n).toNat = n := by
    rw [BitVec.toNat_ofNat]
    omega
  have htop : (0xD : BitVec 4).toNat = 13 := rfl
  rw [encode, toNat_formatXYN, hnibble, htop]

/-- Settles O42: the rows are drawn as one image, or the read of the sprite raises. -/
theorem drwXorsTheWrappedSprite : Obligations.DrwXorsTheWrappedSprite := by
  intro x y n s hn
  have henc := encodedAs_drw x y hn
  refine ⟨henc, fun hfit => ?_, fun hpos hbeyond => ?_⟩
  · obtain ⟨blit, hdraws, hexec⟩ := execDrw_draws x y hn hfit
    exact ⟨_, hexec, hdraws.pixel, hdraws.reg_VF_drawn s, State.reg_VF_drawn s blit ▸ flagByte_zero_or_one _,
      s.drawn_onlyReg blit, s.drawn_onlyChanges blit⟩
  · rw [← henc.2]
    exact execDrw_beyond x y hpos hbeyond

/-- Drawing one image twice gives the old framebuffer back. -/
theorem Draws.twice_fb {img : Nat → Nat → Bool} {a b c : Blit} {flag : Bool} (h : Draws img a b)
    (h' : Draws img (b.1, flag) c) : c.1 = a.1 :=
  Framebuffer.ext_pixel fun px hx py hy => by
    rw [h'.pixel px py hx hy, h.pixel px py hx hy, Bool.xor_assoc, Bool.xor_self, Bool.xor_false]

/-- An image collides with its own drawing where it fell on a pixel that was off. -/
theorem Draws.collides_drawn_iff {img : Nat → Nat → Bool} {a b : Blit} (h : Draws img a b) :
    Collides b.1 img ↔
      ∃ px py, px < 64 ∧ py < 32 ∧ a.1.pixel px py = false ∧ img px py = true := by
  refine exists₂_congr fun px py => and_congr_right fun hx => and_congr_right fun hy =>
    and_congr_left fun himg => ?_
  rw [h.pixel px py hx hy, himg, Bool.xor_true, Bool.not_eq_true']

/-- Settles O43: the first DRW changes neither the origin nor the sprite, so the second draws the same
image again. -/
theorem drwTwiceRestoresTheFramebuffer : Obligations.DrwTwiceRestoresTheFramebuffer := by
  intro x y n s hn hx hy hfit
  obtain ⟨blit, hdraws, hexec⟩ := execDrw_draws x y hn hfit
  obtain ⟨blit', hdraws', hexec'⟩ := execDrw_draws (s := s.drawn blit) x y hn hfit
  rw [spriteImage_drawn, s.drawn_onlyReg blit x hx, s.drawn_onlyReg blit y hy, State.drawn_fb] at hdraws'
  have hfb : ((s.drawn blit).drawn blit').fb = s.fb := hdraws.twice_fb hdraws'
  have hreg : OnlyReg VF s ((s.drawn blit).drawn blit') := fun r hr =>
    ((s.drawn blit).drawn_onlyReg blit' r hr).trans (s.drawn_onlyReg blit r hr)
  have hframe : OnlyChanges [.fb, .v] s ((s.drawn blit).drawn blit') :=
    (s.drawn_onlyChanges blit).trans ((s.drawn blit).drawn_onlyChanges blit')
  exact ⟨_, _, hexec, hexec', hfb, hreg, hframe.tail hfb,
    (hdraws'.reg_VF_drawn _).trans hdraws.collides_drawn_iff⟩

end Sys2Proof.Machine

/-! # Keypad and timers

The meanings of spec/44_keypad_timers.md, and what the events do to a suspended block (R156): the lowest fresh
key is found as R173 says it, so that a `SetKeys` wakes on it; a block that executes nothing keeps everything
but its timers, which every `Tick` lowers. -/

namespace Sys2Proof.Machine

open Sys2Proof.Statement

variable {s t : State}

/-! ## SKP and SKNP (44_keypad_timers.md R150, R151) -/

/-- The low four bits of the byte are its remainder by sixteen. -/
theorem keyPressed_eq (s : State) (b : Byte) : keyPressed s b = s.key.getLsbD (b.toNat % 16) := by
  have hlow : (b &&& 0xF).toNat = b.toNat % 16 := Nat.and_two_pow_sub_one_eq_mod b.toNat 4
  rw [keyPressed, hlow]

/-- Settles O44: a skip on the selected key, and the skip on its negation. -/
theorem keySkips : Obligations.KeySkips := by
  intro x s
  refine ⟨encodedAs_of_formatX 0xE 0x9E rfl rfl rfl, encodedAs_of_formatX 0xE 0xA1 rfl rfl rfl,
    ⟨_, rfl, ?_, skipIf_onlyChanges s _⟩, ⟨_, rfl, ?_, skipIf_onlyChanges s _⟩⟩
  · rw [State.skipIf_pc, keyPressed_eq]
  · rw [State.skipIf_pc, keyPressed_eq]
    cases s.key.getLsbD ((s.reg x).toNat % 16) <;> rfl

/-! ## The timers (44_keypad_timers.md R153 to R155, 60_exceptions.md R170, R176) -/

theorem tone_iff (s : State) : s.tone = true ↔ s.st.toNat ≠ 0 := by
  simp [State.tone, BitVec.toNat_eq]

/-- Settles O46: one write each, of Vx, DT or ST. -/
theorem timerAccess : Obligations.TimerAccess := by
  intro x s
  exact ⟨encodedAs_of_formatX 0xF 0x07 rfl rfl rfl, encodedAs_of_formatX 0xF 0x15 rfl rfl rfl,
    encodedAs_of_formatX 0xF 0x18 rfl rfl rfl,
    ⟨_, rfl, State.reg_setReg_same s x _, setReg_onlyReg s x _, setReg_onlyChanges s x _⟩,
    ⟨_, rfl, rfl, setDelay_onlyChanges s _⟩,
    ⟨_, rfl, rfl, setSound_onlyChanges s _, rfl, tone_iff (s.setSound (s.reg x))⟩⟩

/-- A timer at 0 stays at 0, as the difference of natural numbers does. -/
theorem toNat_countDown (b : Byte) : (countDown b).toNat = b.toNat - 1 := by
  rw [countDown]
  split
  · rw [BitVec.toNat_sub_of_le (by rw [BitVec.le_def]; exact ‹_›)]
    rfl
  · omega

/-! ## The key wake (60_exceptions.md R173) -/

theorem getLsbD_freshKeys {old k : BitVec 16} {j : Nat} :
    (freshKeys old k).getLsbD j = true ↔ k.getLsbD j = true ∧ old.getLsbD j = false := by
  by_cases hj : j < 16
  · simp [freshKeys, hj]
  · simp [freshKeys, BitVec.getLsbD_of_ge _ _ (Nat.le_of_not_lt hj)]

/-- The wake test finds the key that R173 describes. -/
theorem lowestKey_of_lowestFresh {old k : BitVec 16} {j : Nat} (h : LowestFresh old k j) :
    ∃ hj : j < 16, lowestKey (freshKeys old k) = some ⟨j, hj⟩ := by
  obtain ⟨hpressed, hnew, hlowest⟩ := h
  have hj : j < 16 := BitVec.lt_of_getLsbD hpressed
  refine ⟨hj, List.find?_eq_some_iff_getElem.2
    ⟨getLsbD_freshKeys.2 ⟨hpressed, hnew⟩, j, by simpa, by simp, ?_⟩⟩
  intro j' hj'
  rw [List.getElem_finRange, Bool.not_eq_true', Bool.eq_false_iff, Ne, getLsbD_freshKeys]
  rintro ⟨hpressed', hnew'⟩
  exact Bool.false_ne_true (hnew'.symm.trans (hlowest j' hj' hpressed'))

/-- A `SetKeys` with a fresh key wakes a suspended block that is not halted. -/
theorem setKeys_of_wake {k : BitVec 16} {j : Nat} (hwait : s.wait = true) (hhalt : s.halt = false)
    (hj : LowestFresh s.key k j) :
    s.setKeys k =
      { (({ s with key := k } : State).setReg s.wreg (BitVec.ofNat 8 j)).skip with wait := false } := by
  obtain ⟨_, hfound⟩ := lowestKey_of_lowestFresh hj
  simp [State.setKeys, State.keyWake, hwait, hhalt, hfound]

/-- What the wake leaves in V[WREG], PC and WAIT. -/
theorem setKeys_wakes {k : BitVec 16} {j : Nat} (hwait : s.wait = true) (hhalt : s.halt = false)
    (hj : LowestFresh s.key k j) :
    ((s.setKeys k).reg s.wreg).toNat = j ∧ (s.setKeys k).pc = s.pc + 2 ∧
      (s.setKeys k).wait = false := by
  obtain ⟨hlt, _⟩ := lowestKey_of_lowestFresh hj
  rw [setKeys_of_wake hwait hhalt hj]
  refine ⟨?_, rfl, rfl⟩
  calc _ = (BitVec.ofNat 8 j).toNat := congrArg BitVec.toNat (State.reg_setReg_same _ s.wreg _)
    _ = j := toNat_byteOfNat (by omega)

theorem setKeys_key (s : State) (k : BitVec 16) : (s.setKeys k).key = k := by
  rw [State.setKeys]
  split_ifs
  · exact keyWake_onlyChanges { s with key := k } _ .key (by simp)
  · rfl

/-- Settles O45: the suspension keeps KEY and HALT, so what its first `SetKeys` does turns on the keys held
at the instruction. -/
theorem waitForKeySuspendsUntilAFreshKey : Obligations.WaitForKeySuspendsUntilAFreshKey := by
  intro x s
  refine ⟨encodedAs_of_formatX 0xF 0x0A rfl rfl rfl, s.suspend x, rfl, rfl, rfl, rfl,
    (suspend_onlyChanges s x).mono (by simp), fun hhalt k => ⟨fun j hj => ?_, fun hnone => ?_⟩⟩
  · obtain ⟨hreg, hpc, hwait⟩ := setKeys_wakes (s := s.suspend x) rfl hhalt hj
    have hback : (s.suspend x).pc + 2 = s.pc := BitVec.sub_add_cancel s.pc 2
    exact ⟨_, rfl, hreg, hpc.trans hback, hwait, setKeys_key _ k, setKeys_onlyReg (s.suspend x) k,
      (setKeys_onlyChanges _ k).mono (by simp [eventWrites])⟩
  · have hkeys := setKeys_of_noWake (s := s.suspend x) (k := k) (.inr (.inr hnone))
    exact ⟨_, rfl, setKeys_key _ k, hkeys ▸ replaceKey_onlyChanges _ k⟩

/-! ## The suspension (44_keypad_timers.md R156) -/

/-- A halted or suspended block executes nothing. -/
theorem applyEvent_step_idle (h : s.halt = true ∨ s.wait = true) : applyEvent .step s = .next s :=
  cycle_idle (by rcases h with h | h <;> simp [State.running, h])

/-- Of the events, only a `Reset` and a `SetKeys` that wakes end a suspension. -/
theorem suspension_ends {e : Event} (hwait : s.wait = true) (h : applyEvent e s = .next t)
    (hend : t.wait = false) : e = .reset ∨ (s.halt = false ∧ ∃ k, e = .setKeys k ∧ ¬ NoFresh s.key k) := by
  have hkept : t.wait ≠ s.wait := by simp [hwait, hend]
  cases e with
  | reset => exact .inl rfl
  | loadProgram bytes => exact absurd (applyEvent_onlyChanges h .wait (by simp [eventWrites])) hkept
  | tick => exact absurd (applyEvent_onlyChanges h .wait (by simp [eventWrites])) hkept
  | step =>
    rw [applyEvent_step_idle (.inr hwait)] at h
    cases h
    exact absurd rfl hkept
  | setKeys k =>
    cases h
    have hwake : ¬ (s.wait = false ∨ s.halt = true ∨ NoFresh s.key k) := fun hno =>
      hkept (by rw [setKeys_of_noWake hno])
    exact .inr ⟨Bool.eq_false_iff.2 fun hhalt => hwake (.inr (.inl hhalt)), k, rfl,
      fun hnone => hwake (.inr (.inr hnone))⟩

/-- Settles O50: an idle `Step`, the two timers by one each, and the ends of a suspension. -/
theorem suspensionProperties : Obligations.SuspensionProperties := by
  intro s hwait
  exact ⟨applyEvent_step_idle (.inr hwait), rfl, rfl, rfl,
    ⟨s.tick, rfl, toNat_countDown s.dt, toNat_countDown s.st, tick_onlyChanges s⟩,
    fun k => ⟨_, rfl, setKeys_key s k⟩, fun _ _ => suspension_ends hwait⟩

/-! ## The timers of a block that executes nothing (60_exceptions.md R171) -/

/-- Under fairness any number of `Tick`s is reached. -/
theorem Fair.exists_count_tick {events : Nat → Event} (h : Fair events) (n : Nat) :
    ∃ m, Nat.count (events · = .tick) m = n := by
  have hinf : {m | events m = .tick}.Infinite :=
    Nat.frequently_atTop_iff_infinite.1 (Filter.frequently_atTop.2 fun a => (h a).2)
  exact Nat.surjective_count_of_infinite_setOfPred hinf n

/-- In a run of `Step`s and `Tick`s a halted or suspended block counts its timers down by the number of
`Tick`s, and nothing else changes, so that it stays halted or suspended. -/
theorem runUpTo_idle {events : Nat → Event} (hevents : ∀ n, events n = .step ∨ events n = .tick)
    (hidle : s.halt = true ∨ s.wait = true) (m : Nat) :
    ∃ t, runUpTo events m s = .next t ∧
      t.dt.toNat = s.dt.toNat - Nat.count (events · = .tick) m ∧
      t.st.toNat = s.st.toNat - Nat.count (events · = .tick) m ∧ OnlyChanges [.dt, .st] s t := by
  induction m with
  | zero => exact ⟨s, rfl, rfl, rfl, OnlyChanges.refl _ s⟩
  | succ m ih =>
    obtain ⟨t, hrun, hdt, hst, hframe⟩ := ih
    rw [runUpTo_succ hrun, Nat.count_succ]
    rcases hevents m with he | he
    · have hhalt : t.halt = s.halt := hframe .halt (by simp)
      have hwait : t.wait = s.wait := hframe .wait (by simp)
      rw [he, if_neg nofun, applyEvent_step_idle (by rwa [hhalt, hwait])]
      exact ⟨t, rfl, hdt, hst, hframe⟩
    · rw [he, if_pos rfl]
      refine ⟨t.tick, rfl, ?_, ?_, hframe.trans (tick_onlyChanges t)⟩
      · rw [← Nat.sub_sub, ← hdt]
        exact toNat_countDown t.dt
      · rw [← Nat.sub_sub, ← hst]
        exact toNat_countDown t.st

/-- Settles O55: a byte has run out after 255 `Tick`s, which fairness reaches. -/
theorem fairTicksRunTheTimersOut : Obligations.FairTicksRunTheTimersOut := by
  intro events s hfair hevents hidle
  obtain ⟨n, hn⟩ := hfair.exists_count_tick 255
  refine ⟨n, fun m hm => ?_⟩
  obtain ⟨t, hrun, hdt, hst, hframe⟩ := runUpTo_idle hevents hidle m
  have hticks : 255 ≤ Nat.count (events · = .tick) m := hn ▸ Nat.count_monotone _ hm
  have hout (b : Byte) : b.toNat - Nat.count (events · = .tick) m = 0 := by omega
  exact ⟨t, hrun, BitVec.eq_of_toNat_eq (hdt.trans (hout s.dt)),
    BitVec.eq_of_toNat_eq (hst.trans (hout s.st)), hframe⟩

end Sys2Proof.Machine

/-! # Host events

The timers under any number of `Tick`s (spec/60_exceptions.md R170): a `Tick` lowers both by the truncated
difference of natural numbers, so that `n` of them lower both by `n`. -/

namespace Sys2Proof.Machine

open Sys2Proof.Statement

/-! ## Tick (60_exceptions.md R170) -/

/-- Settles O47: `Tick` reads neither HALT nor WAIT, so one case serves every state. -/
theorem tickCountsBothTimersDown : Obligations.TickCountsBothTimersDown := by
  intro s
  have hfloor (b : Byte) : (countDown b).toNat = if b.toNat > 0 then b.toNat - 1 else 0 := by
    rw [toNat_countDown]
    split_ifs <;> omega
  exact ⟨s.tick, rfl, hfloor s.dt, hfloor s.st, tick_onlyChanges s⟩

/-- `n` `Tick`s lower both timers by `n`, and nothing else changes. -/
theorem runEvents_replicate_tick (n : Nat) (s : State) :
    ∃ t, runEvents (List.replicate n .tick) s = .next t ∧
      t.dt.toNat = s.dt.toNat - n ∧ t.st.toNat = s.st.toNat - n ∧ OnlyChanges [.dt, .st] s t := by
  induction n generalizing s with
  | zero => exact ⟨s, rfl, rfl, rfl, OnlyChanges.refl _ s⟩
  | succ n ih =>
    obtain ⟨t, hrun, hdt, hst, hframe⟩ := ih s.tick
    have hlower (b : Byte) : (countDown b).toNat - n = b.toNat - (n + 1) := by
      rw [toNat_countDown, Nat.sub_sub, Nat.add_comm]
    refine ⟨t, ?_, hdt.trans (hlower s.dt), hst.trans (hlower s.st), (tick_onlyChanges s).trans hframe⟩
    rw [List.replicate_succ, runEvents_cons rfl]
    exact hrun

/-- Settles O48: the tone is on while ST is not 0, that is while the difference leaves something. -/
theorem ticksStopAtZero : Obligations.TicksStopAtZero := by
  intro n s
  obtain ⟨t, hrun, hdt, hst, hframe⟩ := runEvents_replicate_tick n s
  have htone : t.outputs.tone = true ↔ s.st.toNat > n :=
    calc t.outputs.tone = true ↔ t.st.toNat ≠ 0 := tone_iff t
      _ ↔ s.st.toNat - n ≠ 0 := by rw [hst]
      _ ↔ s.st.toNat > n := Nat.sub_ne_zero_iff_lt
  exact ⟨t, hrun, hdt, hst, htone, hframe⟩

end Sys2Proof.Machine

/-! # Encoding

The decoder and the encoder are inverse to each other on the words that decode (spec/30_encoding.md R74 to
R76), so that a word's row of the opcode map is its instruction's, and what no instruction encodes to is an
unknown word of R77. -/

namespace Sys2Proof

open Sys2Proof.Statement

/-! ## The two round trips of the encoding (30_encoding.md R74 to R76) -/

/-- Settles O2: the word is the one its two bytes form. -/
theorem decodeEncodeRoundTrip : Obligations.DecodeEncodeRoundTrip := by
  intro i hwf
  have hdecode := decode_encode hwf
  exact ⟨hdecode, fun rest => by simp [encodeBytes, decodeBytes, hdecode]⟩

/-! A word is the format of its own fields, so its fixed fields settle it (the `_fields` lemmas). -/

theorem formatNNN_of_top {w : Word} {top : BitVec 4} (htop : topField w = top) :
    formatNNN top (nnnField w) = w :=
  htop ▸ formatNNN_fields w

theorem formatXKK_of_top {w : Word} {top : BitVec 4} (htop : topField w = top) :
    formatXKK top (xField w) (kkField w) = w :=
  htop ▸ formatXKK_fields w

theorem formatX_of_fixed {w : Word} {top : BitVec 4} {sub : Byte} (htop : topField w = top)
    (hsub : kkField w = sub) : formatX top (xField w) sub = w :=
  htop ▸ hsub ▸ formatX_fields w

theorem formatXYN_of_fixed {w : Word} {top n : BitVec 4} (htop : topField w = top)
    (hn : nField w = n) : formatXYN top (xField w) (yField w) n = w :=
  htop ▸ hn ▸ formatXYN_fields w

/-! In a family with fixed low bits the test that chose the instruction is the rest of its word. -/

theorem encode_of_decodeFamily0 {w : Word} {i : Instr} (h : decodeFamily0 w = .ok i) :
    WellFormed i = true ∧ encode i = w := by
  rw [decodeFamily0] at h
  split_ifs at h with h1 h2 <;> cases h
  · exact ⟨rfl, h1.symm⟩
  · exact ⟨rfl, h2.symm⟩

theorem encode_of_decodeFamily5 {w : Word} {i : Instr} (htop : topField w = 0x5)
    (h : decodeFamily5 w = .ok i) : WellFormed i = true ∧ encode i = w := by
  rw [decodeFamily5] at h
  split_ifs at h with hn
  cases h
  exact ⟨rfl, formatXYN_of_fixed htop hn⟩

theorem encode_of_decodeFamily8 {w : Word} {i : Instr} (htop : topField w = 0x8)
    (h : decodeFamily8 w = .ok i) : WellFormed i = true ∧ encode i = w := by
  simp only [decodeFamily8] at h
  split_ifs at h with hn hn hn hn hn hn hn hn hn <;> cases h <;>
    exact ⟨rfl, formatXYN_of_fixed htop hn⟩

theorem encode_of_decodeFamily9 {w : Word} {i : Instr} (htop : topField w = 0x9)
    (h : decodeFamily9 w = .ok i) : WellFormed i = true ∧ encode i = w := by
  rw [decodeFamily9] at h
  split_ifs at h with hn
  cases h
  exact ⟨rfl, formatXYN_of_fixed htop hn⟩

theorem encode_of_decodeFamilyE {w : Word} {i : Instr} (htop : topField w = 0xE)
    (h : decodeFamilyE w = .ok i) : WellFormed i = true ∧ encode i = w := by
  simp only [decodeFamilyE] at h
  split_ifs at h with hsub hsub <;> cases h <;> exact ⟨rfl, formatX_of_fixed htop hsub⟩

theorem encode_of_decodeFamilyF {w : Word} {i : Instr} (htop : topField w = 0xF)
    (h : decodeFamilyF w = .ok i) : WellFormed i = true ∧ encode i = w := by
  simp only [decodeFamilyF] at h
  split_ifs at h with hsub hsub hsub hsub hsub hsub hsub hsub hsub <;> cases h <;>
    exact ⟨rfl, formatX_of_fixed htop hsub⟩

/-- Settles O3: in each family, the word is the format of its fields. -/
theorem encodeDecodeRoundTrip : Obligations.EncodeDecodeRoundTrip := by
  intro w i h
  have htop {k : Nat} (hk : (topField w).toNat = k) : topField w = BitVec.ofNat 4 k := by
    rw [← hk, BitVec.ofNat_toNat, BitVec.setWidth_eq]
  rw [decode] at h
  split at h
  case h_1 => exact encode_of_decodeFamily0 h
  case h_6 hk => exact encode_of_decodeFamily5 (htop hk) h
  case h_9 hk => exact encode_of_decodeFamily8 (htop hk) h
  case h_10 hk => exact encode_of_decodeFamily9 (htop hk) h
  case h_15 hk => exact encode_of_decodeFamilyE (htop hk) h
  case h_16 hk => exact encode_of_decodeFamilyF (htop hk) h
  case h_2 hk | h_3 hk | h_11 hk | h_12 hk =>
    cases h
    exact ⟨rfl, formatNNN_of_top (htop hk)⟩
  case h_4 hk | h_5 hk | h_7 hk | h_8 hk | h_13 hk =>
    cases h
    exact ⟨rfl, formatXKK_of_top (htop hk)⟩
  case h_14 hk =>
    cases h
    have hn : BitVec.ofNat 4 (nField w).toNat = nField w := by simp
    exact ⟨decide_eq_true (Nat.le_of_lt_succ (nField w).isLt),
      formatXYN_of_fixed (htop hk) hn.symm⟩
  case h_17 => cases h

/-! ## The rows of the opcode map (30_encoding.md R75, R76) -/

open Laws.EncodeMatchesRow in
/-- Every instruction's word matches its row: the members of the family together. -/
theorem encode_matches_row (i : Instr) : encode i &&& (opcodeRow i).2 = (opcodeRow i).1 := by
  cases i
  exacts [cls, ret, jp _, call _, seByte _ _, sneByte _ _, seReg _ _, ldByte _ _, addByte _ _,
    ldReg _ _, orReg _ _, andReg _ _, xorReg _ _, addReg _ _, sub _ _, shr _ _, subn _ _, shl _ _,
    sneReg _ _, ldI _, jpV0 _, rnd _ _, drw _ _ _, skp _, sknp _, ldVxDt _, ldVxK _, ldDtVx _,
    ldStVx _, addIVx _, ldFVx _, ldBVx _, ldMemVx _, ldVxMem _]

theorem opcodeRow_mem_opcodeMap (i : Instr) : opcodeRow i ∈ opcodeMap := by
  cases i <;> simp [opcodeRow, opcodeMap]

/-! Two words that a mask makes equal share the fields it keeps. -/

theorem topField_eq_of_mask {w w' : Word} (h : w &&& 0xF000 = w' &&& 0xF000) :
    topField w = topField w' := by
  rw [← formatNNN_fields w, ← formatNNN_fields w', and_mask_top, and_mask_top] at h
  simpa using congrArg topField h

theorem fields_eq_of_maskN {w w' : Word} (h : w &&& 0xF00F = w' &&& 0xF00F) :
    topField w = topField w' ∧ nField w = nField w' := by
  rw [← formatXYN_fields w, ← formatXYN_fields w', and_mask_topN, and_mask_topN] at h
  exact ⟨by simpa using congrArg topField h, by simpa using congrArg nField h⟩

theorem fields_eq_of_maskKK {w w' : Word} (h : w &&& 0xF0FF = w' &&& 0xF0FF) :
    topField w = topField w' ∧ kkField w = kkField w' := by
  rw [← formatX_fields w, ← formatX_fields w', and_mask_topKK, and_mask_topKK] at h
  exact ⟨by simpa using congrArg topField h, by simpa using congrArg kkField h⟩

/-- A word that matches an instruction's row has the row's fixed fields, on which alone the decoder
decides. -/
theorem decode_of_matches_row {w : Word} (i₀ : Instr)
    (h : w &&& (opcodeRow i₀).2 = (opcodeRow i₀).1) :
    ∃ i, decode w = .ok i ∧ opcodeRow i = opcodeRow i₀ := by
  rw [← encode_matches_row i₀] at h
  cases i₀ with
  | cls | ret =>
    have hw : w = _ := (BitVec.and_allOnes (x := w)).symm.trans h
    exact ⟨_, hw ▸ rfl, rfl⟩
  | jp | call | seByte | sneByte | ldByte | addByte | ldI | jpV0 | rnd | drw =>
    have htop := topField_eq_of_mask h
    simp [decode, htop, encode, opcodeRow]
  | seReg | ldReg | orReg | andReg | xorReg | addReg | sub | shr | subn | shl | sneReg =>
    obtain ⟨htop, hn⟩ := fields_eq_of_maskN h
    simp [decode, decodeFamily5, decodeFamily8, decodeFamily9, htop, hn, encode, opcodeRow]
  | _ =>
    obtain ⟨htop, hsub⟩ := fields_eq_of_maskKK h
    simp [decode, decodeFamilyE, decodeFamilyF, htop, hsub, encode, opcodeRow]

/-- One instruction of each row, in the order of the opcode map. -/
def rowInstrs : List Instr := [
  .cls, .ret, .jp 0, .call 0, .seByte 0 0, .sneByte 0 0, .seReg 0 0, .ldByte 0 0, .addByte 0 0,
  .ldReg 0 0, .orReg 0 0, .andReg 0 0, .xorReg 0 0, .addReg 0 0, .sub 0 0, .shr 0 0, .subn 0 0,
  .shl 0 0, .sneReg 0 0, .ldI 0, .jpV0 0, .rnd 0 0, .drw 0 0 0, .skp 0, .sknp 0, .ldVxDt 0, .ldVxK 0,
  .ldDtVx 0, .ldStVx 0, .addIVx 0, .ldFVx 0, .ldBVx 0, .ldMemVx 0, .ldVxMem 0]

theorem exists_opcodeRow_eq {row : Word × Word} (h : row ∈ opcodeMap) : ∃ i, opcodeRow i = row := by
  obtain ⟨i, -, hi⟩ := List.mem_map.1 (show row ∈ rowInstrs.map opcodeRow from h)
  exact ⟨i, hi⟩

theorem decode_of_matches {w : Word} {row : Word × Word} (hrow : row ∈ opcodeMap)
    (h : w &&& row.2 = row.1) : ∃ i, decode w = .ok i ∧ opcodeRow i = row := by
  obtain ⟨i₀, rfl⟩ := exists_opcodeRow_eq hrow
  exact decode_of_matches_row i₀ h

/-- Settles O4: a word has one decoding, so the two rows it matches are both that instruction's. -/
theorem decodeFindsTheOneRow : Obligations.DecodeFindsTheOneRow := by
  refine ⟨fun w i h => ?_, fun w row => decode_of_matches, fun w row row' hrow hrow' h h' => ?_⟩
  · obtain ⟨-, rfl⟩ := encodeDecodeRoundTrip w i h
    exact ⟨opcodeRow_mem_opcodeMap i, encode_matches_row i⟩
  · obtain ⟨i, hdecode, rfl⟩ := decode_of_matches hrow h
    obtain ⟨i', hdecode', rfl⟩ := decode_of_matches hrow' h'
    cases hdecode.symm.trans hdecode'
    rfl

/-! ## The unknown words (30_encoding.md R77) -/

/-- No word of an instruction is an unknown word. -/
theorem not_unknownWord_encode (i : Instr) : ¬ UnknownWord (encode i).toNat := by
  simp only [UnknownWord, List.mem_cons, List.not_mem_nil, or_false]
  cases i with
  | cls | ret => simp [encode]
  | jp | call | ldI | jpV0 =>
    simp only [encode, toNat_formatNNN, BitVec.reduceToNat]
    omega
  | seByte | sneByte | ldByte | addByte | rnd =>
    simp only [encode, toNat_formatXKK, BitVec.reduceToNat]
    omega
  | drw | seReg | ldReg | orReg | andReg | xorReg | addReg | sub | shr | subn | shl | sneReg =>
    simp only [encode, toNat_formatXYN, BitVec.reduceToNat]
    omega
  | _ =>
    simp only [encode, toNat_formatX, BitVec.reduceToNat]
    omega

/-- What the decoder rejects, it rejects by name, and it is an unknown word: in its family no test of the
fixed low bits has passed. -/
theorem unknownWord_of_decode_error {w : Word} {e : DecodeError} (h : decode w = .error e) :
    UnknownWord w.toNat ∧ e = .unknownOpcode w := by
  simp only [UnknownWord, ← toNat_topField, ← toNat_nField, ← toNat_kkField]
  simp only [decode, decodeFamily0, decodeFamily5, decodeFamily8, decodeFamily9, decodeFamilyE,
    decodeFamilyF] at h
  split at h
  case h_1 | h_6 | h_10 | h_15 | h_16 =>
    split_ifs at h
    cases h
    simp_all [BitVec.toNat_eq]
  case h_9 htop =>
    split_ifs at h
    cases h
    refine ⟨.inr (.inr (.inl ⟨htop, ?_⟩)), rfl⟩
    simp_all only [BitVec.toNat_eq, BitVec.reduceToNat, List.mem_cons, List.not_mem_nil, or_false]
    omega
  case h_17 =>
    have hlt := (topField w).isLt
    interval_cases (topField w).toNat <;> contradiction
  all_goals cases h

/-- Settles O5: a word is rejected or it is the word of an instruction. -/
theorem unknownWordsAreThoseListed : Obligations.UnknownWordsAreThoseListed := by
  intro w
  cases h : decode w with
  | ok i =>
    obtain ⟨-, rfl⟩ := encodeDecodeRoundTrip w i h
    exact ⟨fun hunknown => absurd hunknown (not_unknownWord_encode i), fun _ => ⟨i, rfl⟩⟩
  | error e =>
    obtain ⟨hunknown, rfl⟩ := unknownWord_of_decode_error h
    exact ⟨fun _ => rfl, fun hknown => absurd hunknown hknown⟩

end Sys2Proof

/-! # Faults

The table of faults (spec/60_exceptions.md R160) as a function of the instruction and the state
(`instrFault`): an instruction that it gives a fault raises it, and one that it gives none completes. Every
statement about the faults of a cycle or of an event is read off from there. -/

namespace Sys2Proof.Machine

open Sys2Proof.Statement

variable {s t : State} {i : Instr}

/-! ## Every step answers (92_eei_decisions.md D23) -/

theorem exec_total (i : Instr) (s : State) : ∃ t, exec i s = .next t := by
  cases i with
  | ret | call | drw | addIVx | ldBVx | ldMemVx | ldVxMem =>
    simp only [exec, execRet, execCall, execDrw, execAddIVx, execLdBVx, execLdMemVx, execLdVxMem]
    split <;> exact ⟨_, rfl⟩
  | _ => exact ⟨_, rfl⟩

theorem cycle_total (s : State) : ∃ t, cycle s = .next t := by
  rcases hrun : s.running with _ | _
  · exact ⟨_, cycle_idle hrun⟩
  · rcases hfetch : s.fetchWord with _ | op
    · exact ⟨_, cycle_noFetch hrun hfetch⟩
    · rcases hdecode : decode op with e | i
      · exact ⟨_, cycle_unknown hrun hfetch hdecode⟩
      · exact cycle_exec hrun hfetch hdecode ▸ exec_total i _

theorem applyEvent_total (e : Event) (s : State) : ∃ t, applyEvent e s = .next t := by
  cases e with
  | step => exact cycle_total s
  | _ => exact ⟨_, rfl⟩

/-- Settles O14: a step is a cycle or a listed event. -/
theorem everyStepAnswersANextState : Obligations.EveryStepAnswersANextState := by
  refine ⟨exec_total, applyEvent_total, fun s => ?_⟩
  rcases hsched : s.schedule with _ | ⟨e, rest⟩
  · exact step_idleSchedule hsched ▸ cycle_total _
  · exact step_event hsched ▸ applyEvent_total e _

/-! ## The cycle by cases (30_encoding.md R70) -/

theorem fetchWord_eq_wordAt (hpc : s.pc.toNat + 1 ≤ 0xFFF) :
    s.fetchWord = some (wordAt s s.pc.toNat) := by
  refine fetchWord_eq_some.2 ⟨hpc, BitVec.eq_of_toNat_eq ?_⟩
  rw [toNat_wordOfBytes, wordAt, BitVec.toNat_ofNat]
  omega

theorem halted_haltedBy (s : State) (f : Fault) (op pc0 : Word) :
    HaltedBy s (s.halted f op pc0) f op pc0 :=
  ⟨rfl, rfl, rfl, halted_onlyChanges s f op pc0⟩

/-- Settles O7: one equation of the cycle for each case. -/
theorem instructionCycleByCases : Obligations.InstructionCycleByCases := by
  refine fun s => ⟨applyEvent_step_idle, fun hhalt hwait => ?_⟩
  have hrun : s.running = true := running_iff.2 ⟨hhalt, hwait⟩
  refine ⟨fun hpc => ⟨_, cycle_noFetch hrun (fetchWord_eq_none.2 hpc), halted_haltedBy s _ _ _⟩,
    fun hpc => ⟨fun i hdecode => cycle_exec hrun (fetchWord_eq_wordAt hpc) hdecode,
      fun e hdecode => ?_⟩⟩
  exact ⟨_, cycle_unknown hrun (fetchWord_eq_wordAt hpc) hdecode, halted_haltedBy s _ _ _⟩

/-- Settles O10: the decoder rejects every unknown word. -/
theorem unknownOpcodeHalts : Obligations.UnknownOpcodeHalts := by
  intro s hhalt hwait hpc hunknown
  exact (((instructionCycleByCases s).2 hhalt hwait).2 hpc).2 _
    ((unknownWordsAreThoseListed _).1 hunknown)

/-! ## The faults of the instructions (60_exceptions.md R160) -/

/-- The fault that an instruction raises, by the table. -/
def instrFault (i : Instr) (s : State) : Option Fault :=
  match i with
  | .ret => if s.sp.val = 0 then some .stackUnderflow else none
  | .call _ => if s.sp.val = 16 then some .stackOverflow else none
  | .drw _ _ n => if n > 0 ∧ s.i.toNat + n - 1 > 0xFFF then some .outOfBoundsAccess else none
  | .ldBVx _ => if s.i.toNat + 2 > 0xFFF then some .outOfBoundsAccess else none
  | .ldMemVx x => if s.i.toNat + x.val > 0xFFF then some .outOfBoundsAccess else none
  | .ldVxMem x => if s.i.toNat + x.val > 0xFFF then some .outOfBoundsAccess else none
  | _ => none

/-- An instruction that the table gives a fault raises it, with its own word and address: the pop, the push
or the block access that it starts with answers nothing. -/
theorem exec_of_instrFault {f : Fault} (hf : instrFault i s = some f) :
    exec i s = .next (s.halted f (encode i) s.instrAddr) := by
  cases i <;>
    simp only [instrFault, Option.ite_none_right_eq_some, Option.some.injEq, reduceCtorEq] at hf
  case ret =>
    obtain ⟨hsp, rfl⟩ := hf
    rw [exec, execRet, State.pop_eq_none.2 hsp, raise]
  case call =>
    obtain ⟨hsp, rfl⟩ := hf
    rw [exec, execCall, State.push_eq_none.2 hsp, raise]
  case drw =>
    obtain ⟨⟨hn, hbeyond⟩, rfl⟩ := hf
    rw [exec, execDrw, readBlock_beyond s (by omega) (by omega), raise]
  case ldBVx =>
    obtain ⟨hbeyond, rfl⟩ := hf
    rw [exec, execLdBVx, writeBlock_beyond s (by simp) (by rw [length_bcdDigits]; omega), raise]
  case ldMemVx =>
    obtain ⟨hbeyond, rfl⟩ := hf
    rw [exec, execLdMemVx, writeBlock_beyond s (by simp) (by rw [length_regsUpTo]; omega), raise]
  case ldVxMem =>
    obtain ⟨hbeyond, rfl⟩ := hf
    rw [exec, execLdVxMem, readBlock_beyond s (by omega) (by omega), raise]

/-- The elements that an instruction which raises no fault may write: of those instructions that can raise
one, without HALT and ERR, and without PC where only the fault takes it back. -/
def completionWrites (i : Instr) : List Elem :=
  match i with
  | .ret => [.sp, .pc]
  | .call _ => [.stack, .sp, .pc]
  | .drw _ _ _ => [.fb, .v]
  | .ldBVx _ => [.mem]
  | .ldMemVx _ => [.mem]
  | .ldVxMem _ => [.v]
  | _ => writeSet i

/-- An instruction that the table gives no fault completes: its pop, its push or its block access answers. -/
theorem exec_of_noFault (hf : instrFault i s = none) (h : exec i s = .next t) :
    OnlyChanges (completionWrites i) s t := by
  cases i <;> simp only [instrFault, ite_eq_right_iff, reduceCtorEq, imp_false] at hf
  case ret =>
    obtain ⟨u, hexec, -, -, hframe⟩ :=
      execRet_pops (s := s) (k := ⟨s.sp.val - 1, by omega⟩) (Nat.sub_one_add_one hf).symm
    cases hexec.symm.trans h
    exact hframe
  case call nnn =>
    obtain ⟨u, hexec, -, -, -, -, hframe⟩ :=
      execCall_pushes (s := s) nnn (k := ⟨s.sp.val, by omega⟩) rfl
    cases hexec.symm.trans h
    exact hframe
  case drw x y n =>
    have hread : s.readBlock s.i.toNat n = some (s.bytesFrom s.i.toNat n) :=
      State.readBlock_eq_some.2 ⟨by simp only [memSize]; omega, rfl⟩
    rw [exec, execDrw, hread] at h
    cases h
    exact s.drawn_onlyChanges _
  case ldBVx x =>
    obtain ⟨u, hw⟩ := writeBlock_of_fits (bytes := bcdDigits (s.reg x)) (base := s.i.toNat) s
      (by rw [length_bcdDigits]; omega)
    cases (execLdBVx_stores hw).symm.trans h
    exact writeBlock_onlyChanges hw
  case ldMemVx x =>
    obtain ⟨u, hw⟩ := writeBlock_of_fits (bytes := regsUpTo s x) (base := s.i.toNat) s
      (by rw [length_regsUpTo]; omega)
    cases (execLdMemVx_stores hw).symm.trans h
    exact writeBlock_onlyChanges hw
  case ldVxMem x =>
    cases (execLdVxMem_loads x (by omega)).symm.trans h
    exact loadRegs_onlyChanges s 0 _
  all_goals exact exec_onlyChanges h

theorem halt_notMem_completionWrites (i : Instr) : .halt ∉ completionWrites i := by
  cases i <;> simp [completionWrites, writeSet]

theorem err_notMem_completionWrites (i : Instr) : .err ∉ completionWrites i := by
  cases i <;> simp [completionWrites, writeSet]

theorem pc_notMem_completionWrites (hpc : assignsPc i = false) : .pc ∉ completionWrites i := by
  cases i <;> simp_all [completionWrites, writeSet, assignsPc]

/-- From a block that is not halted, an instruction halts it exactly by the fault the table gives. -/
theorem exec_halts_iff (hhalt : s.halt = false) (h : exec i s = .next t) :
    t.halt = true ↔ ∃ f, instrFault i s = some f ∧ t = s.halted f (encode i) s.instrAddr := by
  refine ⟨fun ht => ?_, ?_⟩
  · cases hf : instrFault i s with
    | some f =>
      cases (exec_of_instrFault hf).symm.trans h
      exact ⟨f, rfl, rfl⟩
    | none =>
      have hkept : t.halt = s.halt := exec_of_noFault hf h .halt (halt_notMem_completionWrites i)
      cases (ht.symm.trans hkept).trans hhalt
  · rintro ⟨f, -, rfl⟩
    rfl

/-- Settles O56: the frame of the write set, narrowed to that of a completion or to that of a fault. -/
theorem instructionsWriteOnlyTheirElements : Obligations.InstructionsWriteOnlyTheirElements := by
  intro i s t h
  refine ⟨exec_onlyChanges h, fun hhalt ht => ?_, fun hhalt ht => ?_⟩
  · have hf : instrFault i s = none := by
      by_contra hsome
      obtain ⟨f, hf⟩ := Option.ne_none_iff_exists'.1 hsome
      cases (exec_of_instrFault hf).symm.trans h
      cases ht
    have hframe := exec_of_noFault hf h
    exact ⟨hframe .err (err_notMem_completionWrites i),
      fun hpc => hframe .pc (pc_notMem_completionWrites hpc)⟩
  · obtain ⟨f, -, rfl⟩ := (exec_halts_iff hhalt h).1 ht
    exact ⟨rfl, halted_onlyChanges s f _ _⟩

/-! ## The faults of a cycle (60_exceptions.md R161, R167) -/

/-- The table gives an instruction no fault of the fetch, of the decoder or of a program load. -/
theorem instrFault_ne_outOfBoundsFetch {f : Fault} (hf : instrFault i s = some f) :
    f ≠ .outOfBoundsFetch := by
  rintro rfl
  cases i <;> simp [instrFault] at hf

/-- All that a cycle which halts a block can have done: its fetch failed, or the word fetched is unknown, or
its instruction raised the table's fault; PC is pc0 again in each case. -/
theorem cycle_halts (hhalt : s.halt = false) (h : cycle s = .next t) (ht : t.halt = true) :
    (s.fetchWord = none ∧ t = s.halted .outOfBoundsFetch 0 s.pc) ∨
    ∃ f op, s.fetchWord = some op ∧ f ≠ .outOfBoundsFetch ∧ t = s.halted f op s.pc := by
  obtain ⟨-, rfl⟩ | ⟨-, hfetch, rfl⟩ | ⟨op, e, -, hfetch, -, rfl⟩ |
    ⟨op, i, -, hfetch, hdecode, hexec⟩ := cycle_cases h
  · cases ht.symm.trans hhalt
  · exact .inl ⟨hfetch, rfl⟩
  · exact .inr ⟨.unknownOpcode, op, hfetch, nofun, rfl⟩
  · obtain ⟨f, hf, rfl⟩ := (exec_halts_iff (s := s.advance) hhalt hexec).1 ht
    obtain ⟨-, rfl⟩ := encodeDecodeRoundTrip op i hdecode
    rw [State.instrAddr_advance]
    exact .inr ⟨f, encode i, hfetch, instrFault_ne_outOfBoundsFetch hf, rfl⟩

/-- Settles O9: below 0xFFF the fetch answers, and no other fault has code 1. -/
theorem fetchBeyondMemoryHalts : Obligations.FetchBeyondMemoryHalts := by
  intro s hhalt hwait
  refine ⟨fun hpc => ((instructionCycleByCases s).2 hhalt hwait).1 (by omega), fun hpc t h ht => ?_⟩
  obtain ⟨hfetch, -⟩ | ⟨f, op, -, hne, rfl⟩ := cycle_halts hhalt h ht
  · have := fetchWord_eq_none.1 hfetch
    omega
  · simpa using hne

/-- Settles O11: every fault of a cycle leaves the state of its beginning, halted. -/
theorem faultsArePrecise : Obligations.FaultsArePrecise := by
  intro s t hhalt h ht
  have hidle : applyEvent .step t = .next t := applyEvent_step_idle (.inl ht)
  obtain ⟨-, rfl⟩ | ⟨f, op, hfetch, hne, rfl⟩ := cycle_halts hhalt h ht
  · exact ⟨_, 0, halted_haltedBy s _ _ _, fun _ => rfl, nofun, hidle⟩
  · obtain ⟨hpc, -⟩ := fetchWord_eq_some.1 hfetch
    have hop : op = wordAt s s.pc.toNat :=
      Option.some.inj (hfetch.symm.trans (fetchWord_eq_wordAt hpc))
    exact ⟨f, op, halted_haltedBy s f op s.pc, fun hf => absurd hf hne, fun _ => hop, hidle⟩

/-! ## The faults of the events (60_exceptions.md R160, R169) -/

/-- The state after an event shows the fault that the table gives: HALT, and ERR as the table has it. -/
def ShowsFault (t : State) (fault : Nat × Word × Word) : Prop :=
  (t.halt = true ↔ fault.1 ≠ 0) ∧
  (t.halt = true → t.err.number = fault.1 ∧ t.err.opcode = fault.2.1 ∧ t.err.pc = fault.2.2)

theorem showsFault_none (h : t.halt = false) : ShowsFault t (0, 0, 0) := by
  simp [ShowsFault, h]

theorem showsFault_halted (s : State) (f : Fault) (op pc0 : Word) :
    ShowsFault (s.halted f op pc0) (f.number, op, pc0) :=
  ⟨⟨fun _ => by cases f <;> simp [Fault.number], fun _ => rfl⟩, fun _ => ⟨rfl, rfl, rfl⟩⟩

theorem faultOf_step_suspended (hwait : s.wait = true) : faultOf .step s = (0, 0, 0) := by
  rw [faultOf, if_pos hwait]

theorem faultOf_step_noFetch (hwait : s.wait = false) (hpc : s.pc.toNat + 1 > 0xFFF) :
    faultOf .step s = (1, 0, s.pc) := by
  simp only [faultOf, hwait, Bool.false_eq_true, if_false, if_pos hpc]

theorem faultOf_step_unknown {e : DecodeError} (hwait : s.wait = false) (hpc : s.pc.toNat + 1 ≤ 0xFFF)
    (hdecode : decode (wordAt s s.pc.toNat) = .error e) :
    faultOf .step s = (2, wordAt s s.pc.toNat, s.pc) := by
  simp only [faultOf, hwait, Bool.false_eq_true, if_false, if_neg (Nat.not_lt_of_le hpc), hdecode]

/-- The table's entry for a `Step` that executes an instruction is the instruction's fault. -/
theorem faultOf_step_instr (hwait : s.wait = false) (hpc : s.pc.toNat + 1 ≤ 0xFFF)
    (hdecode : decode (wordAt s s.pc.toNat) = .ok i) :
    faultOf .step s =
      (instrFault i s).elim (0, 0, 0) fun f => (f.number, wordAt s s.pc.toNat, s.pc) := by
  simp only [faultOf, hwait, Bool.false_eq_true, if_false, if_neg (Nat.not_lt_of_le hpc), hdecode]
  cases i with
  | ret | call | drw | ldBVx | ldMemVx | ldVxMem =>
    simp only [instrFault]
    split_ifs <;> rfl
  | _ => rfl

/-- An instruction shows its fault, seen from the beginning of its cycle: the table reads neither PC nor
what the advance changes. -/
theorem exec_advance_showsFault (hhalt : s.halt = false) (h : exec i s.advance = .next t) :
    ShowsFault t ((instrFault i s).elim (0, 0, 0) fun f => (f.number, encode i, s.pc)) := by
  have hadvance : instrFault i s.advance = instrFault i s := rfl
  cases hf : instrFault i s with
  | some f =>
    cases (exec_of_instrFault (hadvance.trans hf)).symm.trans h
    rw [State.instrAddr_advance]
    exact showsFault_halted _ f _ _
  | none =>
    have hkept : t.halt = s.halt :=
      exec_of_noFault (hadvance.trans hf) h .halt (halt_notMem_completionWrites i)
    exact showsFault_none (hkept.trans hhalt)

theorem cycle_showsFault (hhalt : s.halt = false) (h : cycle s = .next t) :
    ShowsFault t (faultOf .step s) := by
  obtain ⟨hidle, rfl⟩ | ⟨hrun, hfetch, rfl⟩ | ⟨op, e, hrun, hfetch, hdecode, rfl⟩ |
    ⟨op, i, hrun, hfetch, hdecode, hexec⟩ := cycle_cases h
  · rw [faultOf_step_suspended (by simpa [State.running, hhalt] using hidle)]
    exact showsFault_none hhalt
  · rw [faultOf_step_noFetch (running_iff.1 hrun).2 (fetchWord_eq_none.1 hfetch)]
    exact showsFault_halted s .outOfBoundsFetch 0 s.pc
  · obtain ⟨hpc, -⟩ := fetchWord_eq_some.1 hfetch
    cases hfetch.symm.trans (fetchWord_eq_wordAt hpc)
    rw [faultOf_step_unknown (running_iff.1 hrun).2 hpc hdecode]
    exact showsFault_halted s .unknownOpcode (wordAt s s.pc.toNat) s.pc
  · obtain ⟨hpc, -⟩ := fetchWord_eq_some.1 hfetch
    cases hfetch.symm.trans (fetchWord_eq_wordAt hpc)
    obtain ⟨-, hword⟩ := encodeDecodeRoundTrip _ i hdecode
    rw [faultOf_step_instr (running_iff.1 hrun).2 hpc hdecode, ← hword]
    exact exec_advance_showsFault hhalt hexec

/-- A program that is too long halts a block that is not halted (70_reset_and_hazards.md R191). -/
theorem loadProgram_of_refused {bytes : List Byte} (hlong : bytes.length > maxRom)
    (hhalt : s.halt = false) : s.loadProgram bytes = s.halted .romTooLarge 0 s.pc := by
  rw [State.loadProgram, if_pos hlong, hhalt]
  rfl

/-- In a halted block its refusal leaves no trace, the first fault's record being kept. -/
theorem loadProgram_of_halted {bytes : List Byte} (hlong : bytes.length > maxRom)
    (hhalt : s.halt = true) : s.loadProgram bytes = s := by
  rw [State.loadProgram, if_pos hlong, if_pos hhalt]

theorem loadProgram_showsFault (hhalt : s.halt = false) (bytes : List Byte) :
    ShowsFault (s.loadProgram bytes) (faultOf (.loadProgram bytes) s) := by
  rw [faultOf]
  split_ifs with hlong
  · rw [loadProgram_of_refused hlong hhalt]
    exact showsFault_halted s .romTooLarge 0 s.pc
  · rw [loadProgram_of_fits s (Nat.le_of_not_lt hlong)]
    exact showsFault_none hhalt

/-- Settles O12: the cycle has the table's fault, `LoadProgram` the refusal; no other event sets HALT. -/
theorem faultsAreThoseOfTheTable : Obligations.FaultsAreThoseOfTheTable := by
  intro e s t hhalt h
  cases e with
  | step => exact cycle_showsFault hhalt h
  | loadProgram bytes =>
    cases h
    exact loadProgram_showsFault hhalt bytes
  | reset =>
    cases h
    exact showsFault_none rfl
  | tick | setKeys =>
    have hkept : t.halt = s.halt := applyEvent_onlyChanges h .halt (by simp [eventWrites])
    exact showsFault_none (hkept.trans hhalt)

/-! ## The halted block (60_exceptions.md R181, R184) -/

/-- The elements that an event other than `Reset` may write in a halted block. -/
def haltedWrites (e : Event) : List Elem :=
  match e with
  | .loadProgram _ => [.mem]
  | .tick => [.dt, .st]
  | .setKeys _ => [.key]
  | _ => []

theorem applyEvent_onlyChanges_of_halted {e : Event} (hhalt : s.halt = true) (he : e ≠ .reset)
    (h : applyEvent e s = .next t) : OnlyChanges (haltedWrites e) s t := by
  cases e with
  | reset => exact absurd rfl he
  | step =>
    cases (applyEvent_step_idle (.inl hhalt)).symm.trans h
    exact OnlyChanges.refl _ s
  | tick =>
    cases h
    exact tick_onlyChanges s
  | setKeys k =>
    cases h
    rw [setKeys_of_noWake (.inr (.inl hhalt))]
    exact replaceKey_onlyChanges s k
  | loadProgram bytes =>
    cases h
    by_cases hfit : bytes.length ≤ maxRom
    · rw [loadProgram_of_fits s hfit]
      exact writeAll_onlyChanges s progBase bytes
    · rw [loadProgram_of_halted (Nat.lt_of_not_le hfit) hhalt]
      exact OnlyChanges.refl _ s

/-- Settles O13: the frames of the events in a halted block, and the record after `Reset`. -/
theorem haltedUntilReset : Obligations.HaltedUntilReset := by
  refine fun s hhalt => ⟨fun e t he h => ?_, s.resetEvent, rfl, rfl, rfl⟩
  have hframe := applyEvent_onlyChanges_of_halted hhalt he h
  have hwide : OnlyChanges [.dt, .st, .key, .mem] s t := hframe.mono (by cases e <;> simp [haltedWrites])
  have hkept : t.halt = s.halt := hwide .halt (by simp)
  refine ⟨hkept.trans hhalt, hwide .err (by simp), hwide, fun hload => ?_⟩
  exact hframe .mem (by cases e <;> simp_all [haltedWrites])

end Sys2Proof.Machine

/-! # Memory, reset and runs

The canonical form of memory settles it by its bytes (log 8); what Reset, LoadProgram and SetKeys leave, what
the next fetch sees of a store (spec/20_memory.md R62), and the invariant along every run. -/

namespace Sys2Proof.Machine

open Sys2Proof.Statement

variable {s t : State} {font : Vector Byte 80}

/-! ## Memory by its bytes (log 8) -/

theorem Memory.wfFrom_cons {lo a : Nat} {b : Byte} {rest : Memory} :
    Memory.wfFrom font lo ((a, b) :: rest) = true ↔
      lo ≤ a ∧ a < memSize ∧ b ≠ resetByte font a ∧ Memory.wfFrom font (a + 1) rest = true := by
  simp [Memory.wfFrom, and_assoc]

theorem Memory.read_cons_same {a : Nat} {b : Byte} {rest : Memory} :
    Memory.read font ((a, b) :: rest) a = b :=
  if_pos rfl

theorem Memory.read_cons_ne {a c : Nat} {b : Byte} {rest : Memory} (h : c ≠ a) :
    Memory.read font ((a, b) :: rest) c = Memory.read font rest c :=
  if_neg h.symm

/-- At its first listed address a memory reads otherwise than one listed from above it. -/
theorem Memory.read_ne_of_listed_above {lo a : Nat} {b : Byte} {rest m : Memory}
    (h : Memory.wfFrom font lo ((a, b) :: rest) = true) (hm : Memory.wfFrom font (a + 1) m = true) :
    Memory.read font m a ≠ Memory.read font ((a, b) :: rest) a := by
  obtain ⟨-, -, hb, -⟩ := Memory.wfFrom_cons.1 h
  rw [Memory.read_below hm (Nat.lt_succ_self a), Memory.read_cons_same]
  exact hb.symm

/-- Two memories of canonical form that read alike in the whole space are the same list: their first listed
addresses are the same, and so on. -/
theorem Memory.ext_read {lo : Nat} {m m' : Memory} (h : Memory.wfFrom font lo m = true)
    (h' : Memory.wfFrom font lo m' = true)
    (hread : ∀ a < memSize, Memory.read font m' a = Memory.read font m a) : m' = m := by
  induction m generalizing lo m' with
  | nil =>
    cases m' with
    | nil => rfl
    | cons cell' rest' =>
      obtain ⟨-, ha', -, -⟩ := Memory.wfFrom_cons.1 h'
      exact absurd (hread _ ha').symm (Memory.read_ne_of_listed_above h' rfl)
  | cons cell rest ih =>
    obtain ⟨a, b⟩ := cell
    obtain ⟨-, ha, hb, hrest⟩ := Memory.wfFrom_cons.1 h
    cases m' with
    | nil => exact absurd (hread a ha) (Memory.read_ne_of_listed_above h rfl)
    | cons cell' rest' =>
      obtain ⟨a', b'⟩ := cell'
      obtain ⟨-, ha', hb', hrest'⟩ := Memory.wfFrom_cons.1 h'
      rcases Nat.lt_trichotomy a a' with hlt | rfl | hlt
      · exact absurd (hread a ha)
          (Memory.read_ne_of_listed_above h (Memory.wfFrom_cons.2 ⟨hlt, ha', hb', hrest'⟩))
      · have hbyte : b' = b := by
          simpa only [Memory.read_cons_same] using hread a ha
        have htail : rest' = rest := by
          refine ih hrest hrest' fun c hc => ?_
          by_cases hca : c = a
          · rw [hca, Memory.read_below hrest' (Nat.lt_succ_self a),
              Memory.read_below hrest (Nat.lt_succ_self a)]
          · simpa only [Memory.read_cons_ne hca] using hread c hc
        rw [hbyte, htail]
      · exact absurd (hread a' ha').symm
          (Memory.read_ne_of_listed_above h' (Memory.wfFrom_cons.2 ⟨hlt, ha, hb, hrest⟩))

/-- Settles O18: the bytes decide the list. -/
theorem equalBytesAreEqualMemories : Obligations.EqualBytesAreEqualMemories := by
  intro s t hs ht hcfg hread
  rw [MemOk, hcfg] at ht
  refine Memory.ext_read hs ht fun a ha => ?_
  have hbyte := hread a (Nat.le_of_lt_succ ha)
  rwa [State.readByte, State.readByte, hcfg] at hbyte

/-! ## Reset (70_reset_and_hazards.md R190) -/

/-- Settles O15: the machine's reset state is what `Reset` makes of it. -/
theorem invariantHoldsAtReset : Obligations.InvariantHoldsAtReset :=
  ⟨resetEvent_inv State.reset, resetEvent_inv⟩

theorem resetByte_font {k : Nat} (hk : k < 80) : resetByte font (0x050 + k) = font[k] := by
  have hin : fontBase ≤ 0x050 + k ∧ 0x050 + k < fontBase + 80 := by
    simp only [fontBase]
    omega
  rw [resetByte, dif_pos hin]
  simp

theorem resetByte_outside {a : Nat} (ha : a ≤ 0x04F ∨ 0x0A0 ≤ a) : resetByte font a = 0 :=
  dif_neg (by simp only [fontBase]; omega)

/-- Settles O19: the table field by field; memory unlisted reads as its reset contents. -/
theorem resetGivesTheTable : Obligations.ResetGivesTheTable := by
  refine ⟨fun s => ⟨s.resetEvent, rfl, fun r => ?_, rfl, rfl, rfl, fun k => ?_, rfl, rfl,
    Framebuffer.pixel_clear, fun d r hd hr => ?_, fun a ha => resetByte_outside (by omega),
    rfl, rfl, rfl, rfl, rfl, rfl, rfl, rfl⟩, rfl⟩
  · exact Vector.getElem_replicate r.isLt
  · exact Vector.getElem_replicate k.isLt
  · rw [Nat.add_assoc]
    exact resetByte_font (by omega)

/-! ## LoadProgram (70_reset_and_hazards.md R191) -/

/-- A program that fits is a block stored at 0x200. -/
theorem writeBlock_loadProgram (s : State) {bytes : List Byte} (hfit : bytes.length ≤ 3584) :
    s.writeBlock progBase bytes = some (s.loadProgram bytes) :=
  State.writeBlock_eq_some.2
    ⟨.inr (by simp only [progBase, memSize]; omega), loadProgram_of_fits s hfit⟩

/-- Settles O20: the copy of a block, and the two refusals. -/
theorem loadProgramCopiesOrRefuses : Obligations.LoadProgramCopiesOrRefuses := by
  intro s bytes hmem
  refine ⟨fun hfit => ?_, fun hlong hhalt => ?_, fun hlong hhalt => ?_⟩
  · have hw := writeBlock_loadProgram s hfit
    exact ⟨_, rfl, writeBlock_onlyChanges hw,
      fun k hk => readByte_writeBlock_stored hmem hw (List.getElem?_eq_getElem hk),
      fun a ha => readByte_writeBlock_outside hmem hw ha⟩
  · exact ⟨_, rfl, loadProgram_of_refused hlong hhalt ▸ halted_haltedBy s _ _ _⟩
  · exact congrArg Host.Outcome.next (loadProgram_of_halted hlong hhalt)

/-! ## Stores and the next fetch (20_memory.md R62) -/

theorem execLdMemVx_completes {x : Reg} (hmem : MemOk s) (ht : t.halt = false)
    (h : exec (.ldMemVx x) s = .next t) :
    (∀ k : Reg, k.val ≤ x.val → t.readByte (s.i.toNat + k.val) = s.reg k) ∧
    (∀ a, a < s.i.toNat ∨ s.i.toNat + x.val < a → t.readByte a = s.readByte a) := by
  obtain ⟨-, hfits, hbeyond⟩ := storeRegistersToMemory x s hmem
  rcases Nat.lt_or_ge 0xFFF (s.i.toNat + x.val) with hlt | hle
  · obtain ⟨u, hexec, hhalt, -⟩ := hbeyond hlt
    cases hexec.symm.trans h
    cases hhalt.symm.trans ht
  · obtain ⟨u, hexec, hstored, hkept, -⟩ := hfits hle
    cases hexec.symm.trans h
    exact ⟨hstored, hkept⟩

theorem execLdBVx_completes {x : Reg} (hmem : MemOk s) (ht : t.halt = false)
    (h : exec (.ldBVx x) s = .next t) :
    (t.readByte s.i.toNat).toNat = (s.reg x).toNat / 100 ∧
    (t.readByte (s.i.toNat + 1)).toNat = (s.reg x).toNat / 10 % 10 ∧
    (t.readByte (s.i.toNat + 2)).toNat = (s.reg x).toNat % 10 ∧
    (∀ a, a < s.i.toNat ∨ s.i.toNat + 2 < a → t.readByte a = s.readByte a) := by
  obtain ⟨-, hfits, hbeyond⟩ := bcdStoresThreeDigits x s hmem
  rcases Nat.lt_or_ge 0xFFF (s.i.toNat + 2) with hlt | hle
  · obtain ⟨u, hexec, hhalt, -⟩ := hbeyond hlt
    cases hexec.symm.trans h
    cases hhalt.symm.trans ht
  · obtain ⟨u, hexec, hhundreds, htens, hones, hkept, -⟩ := hfits hle
    cases hexec.symm.trans h
    exact ⟨hhundreds, htens, hones, hkept⟩

/-- Settles O40: a fetch reads the two bytes that the store left. -/
theorem storesAreSeenByTheNextFetch : Obligations.StoresAreSeenByTheNextFetch := by
  intro s t p hmem hp
  obtain ⟨w, hw, hhigh, hlow⟩ : ∃ w, ({ t with pc := p } : State).fetchWord = some w ∧
      w.toNat / 256 = (t.readByte p.toNat).toNat ∧ w.toNat % 256 = (t.readByte (p.toNat + 1)).toNat :=
    fetchIsBigEndianAtAnyPc { t with pc := p } hp
  rw [hw]
  refine ⟨fun x _ ht h => ⟨w, rfl, ?_⟩, fun x _ ht h => ⟨w, rfl, ?_⟩, fun bytes hfit h => ⟨w, rfl, ?_⟩⟩
  · obtain ⟨hstored, hkept⟩ := execLdMemVx_completes hmem ht h
    rw [hhigh, hlow]
    exact ⟨fun k hk => ⟨fun hp => by rw [hp, hstored k hk], fun hp => by rw [hp, hstored k hk]⟩,
      fun hp => by rw [hkept _ hp], fun hp => by rw [hkept _ hp]⟩
  · obtain ⟨hhundreds, htens, hones, hkept⟩ := execLdBVx_completes hmem ht h
    rw [hhigh, hlow]
    exact ⟨fun hp => by rw [hp, hhundreds], fun hp => by rw [hp, hhundreds],
      fun hp => by rw [hp, htens], fun hp => by rw [hp, htens],
      fun hp => by rw [hp, hones], fun hp => by rw [hp, hones],
      fun hp => by rw [hkept _ hp], fun hp => by rw [hkept _ hp]⟩
  · obtain ⟨u, hload, -, hstored, hkept⟩ := (loadProgramCopiesOrRefuses s bytes hmem).1 hfit
    cases hload.symm.trans h
    rw [hhigh, hlow]
    exact ⟨fun k hk => ⟨fun hp => by rw [hp, hstored k hk], fun hp => by rw [hp, hstored k hk]⟩,
      fun hp => by rw [hkept _ hp], fun hp => by rw [hkept _ hp]⟩

/-! ## SetKeys (60_exceptions.md R172, R173) -/

/-- Settles O49: the wake, and every other case. -/
theorem setKeysReplacesKeysAndWakes : Obligations.SetKeysReplacesKeysAndWakes := by
  refine fun s k => ⟨s.setKeys k, rfl, setKeys_key s k, fun hwait hhalt j hj => ?_, fun hnoWake => ?_⟩
  · obtain ⟨hreg, hpc, hawake⟩ := setKeys_wakes hwait hhalt hj
    exact ⟨hreg, setKeys_onlyReg s k, hpc, hawake, setKeys_onlyChanges s k⟩
  · exact setKeys_of_noWake hnoWake ▸ replaceKey_onlyChanges s k

/-! ## Runs -/

/-- The invariant holds along every run. -/
theorem Reachable.inv (h : Reachable s) : s.Inv := by
  induction h with
  | reset s => exact resetEvent_inv s
  | event e _ hevent ih => exact applyEvent_inv ih hevent
  | step _ hstep ih => exact invariantKeptByEveryStep _ _ ih hstep

theorem number_ne_zero_iff (e : ErrRecord) : e.number ≠ 0 ↔ e.code.isSome = true := by
  rcases e with ⟨_ | f, op, pc⟩
  · simp [ErrRecord.number]
  · cases f <;> simp [ErrRecord.number, Fault.number]

/-- Settles O17: the bounds are the invariant's. -/
theorem reachableStatesAreBounded : Obligations.ReachableStatesAreBounded := by
  intro s h
  have hinv := h.inv
  exact ⟨hinv.pcBound, hinv.stackBound, hinv.indexBound, hinv.memWf,
    by rw [number_ne_zero_iff, hinv.haltErr]⟩

/-! ## The machine's step on a fetched word -/

/-- Settles O1: the decoder evaluated on each word. -/
theorem decodesWordsOfTheSpec : Obligations.DecodesWordsOfTheSpec :=
  ⟨rfl, rfl, rfl, rfl, rfl, rfl, rfl, rfl, rfl, rfl, rfl, rfl⟩

/-- Settles O6: neither the schedule nor the count of turns is read by the fetch. -/
theorem stepRunsTheDecodedInstruction : Obligations.StepRunsTheDecodedInstruction := by
  intro s i hhalt hwait hpc hdecode
  have hrun : s.running = true := running_iff.2 ⟨hhalt, hwait⟩
  have hfetch := fetchWord_eq_wordAt hpc
  refine ⟨fun hsched => ?_, fun rest hsched => ?_⟩
  · rw [step_idleSchedule hsched]
    exact cycle_exec (s := s.openTurn) hrun hfetch hdecode
  · rw [step_event hsched]
    exact cycle_exec (s := { s with schedule := rest }) hrun hfetch hdecode

theorem fetchAddr_le (s : State) : s.fetchAddr + 1 ≤ 0xFFF := by
  rw [State.fetchAddr]
  split_ifs with hpc
  · exact hpc
  · decide

/-- The word that `withFetchWord` places is the word fetched. -/
theorem fetchWord_withFetchWord (hmem : MemOk s) (nbits w : Nat) :
    (s.withFetchWord nbits w).fetchWord = some (tableWord nbits w) := by
  have haddr := fetchAddr_le s
  have hpc : (s.withFetchWord nbits w).pc.toNat = s.fetchAddr := by
    change (BitVec.ofNat 16 s.fetchAddr).toNat = s.fetchAddr
    rw [BitVec.toNat_ofNat]
    omega
  have hread (a : Nat) : (s.withFetchWord nbits w).readByte a = _ :=
    Memory.read_writeAll hmem (.inr (by simp only [List.length, memSize]; omega))
  rw [fetchWord_eq_some, hpc, hread, hread]
  simp [haddr]

theorem decode_of_decodeTableWord {nbits w : Nat} {i : Instr} (h : decodeTableWord nbits w = some i) :
    decode (tableWord nbits w) = .ok i := by
  simp only [decodeTableWord, decodeBytes, wordOfBytes_split] at h
  cases hdecode : decode (tableWord nbits w) <;> simp_all

/-- Settles O21: with no event listed the step is a cycle, which fetches the word placed. -/
theorem fetchWordPlacedIsRun : Obligations.FetchWordPlacedIsRun := by
  intro s w i hmem h u
  rw [step_idleSchedule rfl]
  exact cycle_exec (s := (s.withFetchWord 16 w).openTurn) rfl (fetchWord_withFetchWord hmem 16 w)
    (decode_of_decodeTableWord h)

/-! ## A jump to itself (70_reset_and_hazards.md R193) -/

/-- Settles O27: the jump executed is the state of the cycle's beginning. -/
theorem selfJumpIsStable : Obligations.SelfJumpIsStable := by
  intro s nnn hhalt hwait hnnn hpc hword
  have hdecode : decode (wordAt s s.pc.toNat) = .ok (.jp nnn) := by
    have henc : EncodedAs (.jp nnn) (0x1000 + nnn.toNat) :=
      encodedAs_of_toNat rfl (toNat_formatNNN 0x1 nnn)
    rw [← henc.1, ← hword, BitVec.ofNat_toNat, BitVec.setWidth_eq]
  have htarget : zext16 nnn = s.pc := BitVec.eq_of_toNat_eq ((toNat_zext16 nnn).trans hnnn.symm)
  have hfetch := fetchWord_eq_wordAt hpc
  have hstep : applyEvent .step s = .next s := by
    refine (cycle_exec (running_iff.2 ⟨hhalt, hwait⟩) hfetch hdecode).trans ?_
    rw [exec, execJp, htarget]
    rfl
  refine ⟨?_, fun n => ?_⟩
  · simp [State.atSelfJump, hfetch, hdecode, htarget]
  · induction n with
    | zero => rfl
    | succ n ih => rw [List.replicate_succ, runEvents_cons hstep, ih]

end Sys2Proof.Machine

/-! # What instructions do not observe

No instruction reads HALT, ERR, ST or the schedule, and only those named in spec/93_implementation_defined.md
U2 and U3 read the parameters. So an instruction answers alike where these hidden elements differ; the
schedule of the machine then runs as the fold of its events (60_exceptions.md R174). -/

namespace Sys2Proof.Machine

open Sys2Proof.Statement

variable {s t : State}

/-! ## The hidden elements -/

/-- The elements that instructions do not observe, or, of the parameters, almost none does. -/
structure Hidden where
  halt : Bool
  err : ErrRecord
  st : Byte
  cfg : Config
  schedule : List Event

def State.hidden (s : State) : Hidden := ⟨s.halt, s.err, s.st, s.cfg, s.schedule⟩

/-- The state with other hidden elements. -/
def State.withHidden (s : State) (d : Hidden) : State :=
  { s with halt := d.halt, err := d.err, st := d.st, cfg := d.cfg, schedule := d.schedule }

@[simp] theorem State.withHidden_i (s : State) (d : Hidden) : (s.withHidden d).i = s.i := rfl
@[simp] theorem State.withHidden_pc (s : State) (d : Hidden) : (s.withHidden d).pc = s.pc := rfl
@[simp] theorem State.withHidden_reg (s : State) (d : Hidden) (r : Reg) :
    (s.withHidden d).reg r = s.reg r := rfl
@[simp] theorem State.withHidden_cfg (s : State) (d : Hidden) : (s.withHidden d).cfg = d.cfg := rfl
@[simp] theorem regsUpTo_withHidden (s : State) (d : Hidden) (x : Reg) :
    regsUpTo (s.withHidden d) x = regsUpTo s x := rfl

variable {d : Hidden}

/-- From `s` to `t` the hidden elements `d` have become `d'` in a second run beside the first: an element
that is the first run's before is so after, and the parameters and the schedule are kept. -/
structure Follows (s : State) (d : Hidden) (t : State) (d' : Hidden) : Prop where
  halt : d.halt = s.halt → d'.halt = t.halt
  err : d.err = s.err → d'.err = t.err
  st : d.st = s.st → d'.st = t.st
  cfg : d.cfg = s.cfg → d'.cfg = t.cfg
  schedule : d.schedule = s.schedule → d'.schedule = t.schedule
  cfgKept : d'.cfg = d.cfg
  scheduleKept : d'.schedule = d.schedule

/-- Where the first run changes no hidden element, neither does the second. -/
theorem Follows.of_hidden_eq (h : t.hidden = s.hidden) : Follows s d t d := by
  simp only [State.hidden, Hidden.mk.injEq] at h
  obtain ⟨hhalt, herr, hst, hcfg, hsched⟩ := h
  exact ⟨hhalt ▸ id, herr ▸ id, hst ▸ id, hcfg ▸ id, hsched ▸ id, rfl, rfl⟩

/-- The answer `r`, beside an answer `t` of the first run, is `t` with hidden elements that follow. -/
def AnswersBeside (s : State) (d : Hidden) (t : State) (r : Result) : Prop :=
  ∃ d', r = .next (t.withHidden d') ∧ Follows s d t d'

/-! ## The operations beside other hidden elements -/

theorem raise_beside {f : Fault} {op pc0 : Word} (h : raise f op pc0 s = .next t) :
    AnswersBeside s d t (raise f op pc0 (s.withHidden d)) := by
  cases h
  exact ⟨{ d with halt := true, err := ⟨some f, op, pc0⟩ }, rfl,
    ⟨fun _ => rfl, fun _ => rfl, id, id, id, rfl, rfl⟩⟩

theorem pop_beside {w : Word} (h : s.pop = some (w, t)) :
    (s.withHidden d).pop = some (w, t.withHidden d) ∧ t.hidden = s.hidden := by
  obtain ⟨hlt, hne, rfl, rfl⟩ := State.pop_eq_some.1 h
  exact ⟨State.pop_eq_some.2 ⟨hlt, hne, rfl, rfl⟩, rfl⟩

theorem pop_withHidden_none (h : s.pop = none) : (s.withHidden d).pop = none :=
  have hsp := State.pop_eq_none.1 h
  State.pop_eq_none.2 hsp

theorem push_beside {w : Word} (h : s.push w = some t) :
    (s.withHidden d).push w = some (t.withHidden d) ∧ t.hidden = s.hidden := by
  obtain ⟨hlt, rfl⟩ := State.push_eq_some.1 h
  exact ⟨State.push_eq_some.2 ⟨hlt, rfl⟩, rfl⟩

theorem push_withHidden_none {w : Word} (h : s.push w = none) : (s.withHidden d).push w = none :=
  have hsp := State.push_eq_none.1 h
  State.push_eq_none.2 hsp

theorem readBlock_withHidden (hfont : d.cfg.font = s.cfg.font) (base len : Nat) :
    (s.withHidden d).readBlock base len = s.readBlock base len := by
  simp only [State.readBlock, State.bytesFrom, State.readByte, State.withHidden, hfont]

theorem writeBlock_beside {base : Nat} {bytes : List Byte} (hfont : d.cfg.font = s.cfg.font)
    (h : s.writeBlock base bytes = some t) :
    (s.withHidden d).writeBlock base bytes = some (t.withHidden d) ∧ t.hidden = s.hidden := by
  obtain ⟨hrange, rfl⟩ := State.writeBlock_eq_some.1 h
  refine ⟨State.writeBlock_eq_some.2 ⟨hrange, ?_⟩, rfl⟩
  simp only [State.withHidden, hfont]

theorem writeBlock_withHidden_none {base : Nat} {bytes : List Byte} (h : s.writeBlock base bytes = none) :
    (s.withHidden d).writeBlock base bytes = none :=
  State.writeBlock_eq_none.2 (State.writeBlock_eq_none.1 h)

theorem loadRegs_withHidden (s : State) (d : Hidden) (lo : Nat) (bytes : List Byte) :
    loadRegs (s.withHidden d) lo bytes = (loadRegs s lo bytes).withHidden d := by
  induction bytes generalizing s lo with
  | nil => rfl
  | cons b rest ih =>
    rw [loadRegs, loadRegs, ← ih]
    split <;> rfl

theorem loadRegs_hidden (s : State) (lo : Nat) (bytes : List Byte) :
    (loadRegs s lo bytes).hidden = s.hidden := by
  rw [loadRegs_eq]
  rfl

theorem skipIf_beside (test : Bool) :
    AnswersBeside s d (s.skipIf test) (.next ((s.withHidden d).skipIf test)) := by
  cases test <;> exact ⟨d, rfl, .of_hidden_eq rfl⟩

/-! ## The instructions beside other hidden elements -/

theorem execRet_beside (h : execRet s = .next t) : AnswersBeside s d t (execRet (s.withHidden d)) := by
  rw [execRet] at h ⊢
  split at h
  next hpop =>
    rw [pop_withHidden_none hpop]
    exact raise_beside h
  next target s' hpop =>
    cases h
    obtain ⟨hpop', hhidden⟩ := pop_beside (d := d) hpop
    rw [hpop']
    exact ⟨d, rfl, .of_hidden_eq hhidden⟩

theorem execCall_beside {nnn : Addr} (h : execCall nnn s = .next t) :
    AnswersBeside s d t (execCall nnn (s.withHidden d)) := by
  rw [execCall] at h ⊢
  split at h
  next hpush =>
    rw [State.withHidden_pc, push_withHidden_none hpush]
    exact raise_beside h
  next s' hpush =>
    cases h
    obtain ⟨hpush', hhidden⟩ := push_beside (d := d) hpush
    rw [State.withHidden_pc, hpush']
    exact ⟨d, rfl, .of_hidden_eq hhidden⟩

theorem execDrw_beside {x y : Reg} {n : Nat} (hfont : d.cfg.font = s.cfg.font)
    (h : execDrw x y n s = .next t) : AnswersBeside s d t (execDrw x y n (s.withHidden d)) := by
  rw [execDrw] at h ⊢
  rw [State.withHidden_i, readBlock_withHidden hfont]
  split at h
  next => exact raise_beside h
  next =>
    cases h
    exact ⟨d, rfl, .of_hidden_eq rfl⟩

theorem execLdVxMem_beside {x : Reg} (hfont : d.cfg.font = s.cfg.font)
    (h : execLdVxMem x s = .next t) : AnswersBeside s d t (execLdVxMem x (s.withHidden d)) := by
  rw [execLdVxMem] at h ⊢
  rw [State.withHidden_i, readBlock_withHidden hfont]
  split at h
  next => exact raise_beside h
  next bytes _ =>
    cases h
    exact ⟨d, congrArg _ (loadRegs_withHidden s d 0 bytes), .of_hidden_eq (loadRegs_hidden s 0 bytes)⟩

theorem execAddIVx_beside {x : Reg} (hmode : d.cfg.addIMode = s.cfg.addIMode)
    (h : execAddIVx x s = .next t) : AnswersBeside s d t (execAddIVx x (s.withHidden d)) := by
  simp only [execAddIVx, State.withHidden_cfg, hmode] at h ⊢
  split at h <;> cases h <;> exact ⟨d, rfl, .of_hidden_eq rfl⟩

/-- The source of a shift is the same under either value of SHIFT_SRC where x = y. -/
theorem shiftSource_withHidden {x y : Reg} (h : x = y ∨ d.cfg.shiftSrc = s.cfg.shiftSrc) :
    shiftSource (s.withHidden d) x y = shiftSource s x y := by
  rw [shiftSource, shiftSource, State.withHidden_cfg]
  rcases h with rfl | hsrc
  · cases d.cfg.shiftSrc <;> cases s.cfg.shiftSrc <;> rfl
  · rw [hsrc]
    rfl

/-- Every instruction answers alike beside other hidden elements, where it does not read the parameter that
differs. -/
theorem exec_beside {i : Instr} (hfont : d.cfg.font = s.cfg.font)
    (hshift : ∀ x y, i = .shr x y ∨ i = .shl x y → x = y ∨ d.cfg.shiftSrc = s.cfg.shiftSrc)
    (hadd : ∀ x, i = .addIVx x → d.cfg.addIMode = s.cfg.addIMode) (h : exec i s = .next t) :
    AnswersBeside s d t (exec i (s.withHidden d)) := by
  cases i with
  | ret => exact execRet_beside h
  | call => exact execCall_beside h
  | drw => exact execDrw_beside hfont h
  | ldVxMem => exact execLdVxMem_beside hfont h
  | addIVx x => exact execAddIVx_beside (hadd x rfl) h
  | ldBVx | ldMemVx =>
    simp only [exec, execLdBVx, execLdMemVx, State.withHidden_i, State.withHidden_reg,
      regsUpTo_withHidden] at h ⊢
    split at h
    next hwrite =>
      rw [writeBlock_withHidden_none hwrite]
      exact raise_beside h
    next hwrite =>
      cases h
      obtain ⟨hwrite', hhidden⟩ := writeBlock_beside hfont hwrite
      rw [hwrite']
      exact ⟨d, rfl, .of_hidden_eq hhidden⟩
  | shr x y =>
    have hsrc := shiftSource_withHidden (hshift x y (.inl rfl))
    cases h
    simp only [exec, execShr, hsrc]
    exact ⟨d, rfl, .of_hidden_eq rfl⟩
  | shl x y =>
    have hsrc := shiftSource_withHidden (hshift x y (.inr rfl))
    cases h
    simp only [exec, execShl, hsrc]
    exact ⟨d, rfl, .of_hidden_eq rfl⟩
  | ldStVx x =>
    cases h
    exact ⟨{ d with st := s.reg x }, rfl, ⟨id, id, fun _ => rfl, id, id, rfl, rfl⟩⟩
  | seByte | sneByte | seReg | sneReg | skp | sknp =>
    cases h
    exact skipIf_beside _
  | _ =>
    cases h
    exact ⟨d, rfl, .of_hidden_eq rfl⟩

/-- Settles O58: with HALT, ERR and ST as the hidden elements that differ. -/
theorem noInstructionObservesHaltErrOrSound : Obligations.NoInstructionObservesHaltErrOrSound := by
  intro i s h e b
  obtain ⟨t, ht⟩ := exec_total i s
  obtain ⟨⟨h', e', b', c', l'⟩, hexec, hfollows⟩ :=
    exec_beside (d := { s.hidden with halt := h, err := e, st := b }) rfl (fun _ _ _ => .inr rfl)
      (fun _ _ => rfl) ht
  obtain rfl : c' = t.cfg := hfollows.cfg rfl
  obtain rfl : l' = t.schedule := hfollows.schedule rfl
  exact ⟨t, _, ht, hexec, rfl⟩

/-! ## The parameters (93_implementation_defined.md U2, U3) -/

/-- `ADD I,Vx` gives I the sum of its mode, flag or none. -/
theorem execAddIVx_index {x : Reg} (h : execAddIVx x s = .next t) :
    t.i = indexSum s.cfg.addIMode s.i (s.reg x) := by
  simp only [execAddIVx] at h
  split at h <;> cases h <;> rfl

/-- Up to 0xFFF no mode reduces the sum. -/
theorem toNat_indexSum_of_le {mode : AddIMode} {i : Word} {b : Byte} (h : i.toNat + b.toNat ≤ 0xFFF) :
    (indexSum mode i b).toNat = i.toNat + b.toNat := by
  cases mode with
  | w16 => rw [toNat_indexSum_w16, Nat.mod_eq_of_lt (by omega)]
  | w12 => rw [toNat_indexSum_w12, Nat.mod_eq_of_lt (by omega)]
  | w16Vf => rw [toNat_indexSum_w16Vf, Nat.mod_eq_of_lt (by omega)]

/-- Settles O59: with the parameters as the hidden element that differs. -/
theorem parametersMatterOnlyWhereNamed : Obligations.ParametersMatterOnlyWhereNamed := by
  intro i s c hfont hshift
  refine ⟨fun hadd => ?_, ?_⟩
  · obtain ⟨t, ht⟩ := exec_total i s
    obtain ⟨⟨h', e', b', c', l'⟩, hexec, hfollows⟩ :=
      exec_beside (d := { s.hidden with cfg := c }) hfont (fun x y hi => .inl (hshift x y hi))
        (fun x hi => absurd hi (hadd x)) ht
    obtain rfl : h' = t.halt := hfollows.halt rfl
    obtain rfl : e' = t.err := hfollows.err rfl
    obtain rfl : b' = t.st := hfollows.st rfl
    obtain rfl : c' = c := hfollows.cfgKept
    obtain rfl : l' = t.schedule := hfollows.schedule rfl
    exact ⟨t, ht, hexec⟩
  · rintro x rfl hsum
    obtain ⟨t, ht⟩ := exec_total (.addIVx x) s
    obtain ⟨t', ht'⟩ := exec_total (.addIVx x) { s with cfg := c }
    have hi : t.i.toNat = s.i.toNat + (s.reg x).toNat :=
      execAddIVx_index ht ▸ toNat_indexSum_of_le hsum
    have hi' : t'.i.toNat = s.i.toNat + (s.reg x).toNat :=
      execAddIVx_index ht' ▸ toNat_indexSum_of_le hsum
    exact ⟨t, t', ht, ht', BitVec.eq_of_toNat_eq (hi'.trans hi.symm), hi⟩

/-! ## The schedule (60_exceptions.md R174) -/

theorem exec_withSchedule {i : Instr} (l : List Event) (h : exec i s = .next t) :
    exec i { s with schedule := l } = .next { t with schedule := l } := by
  obtain ⟨⟨h', e', b', c', l'⟩, hexec, hfollows⟩ :=
    exec_beside (d := { s.hidden with schedule := l }) rfl (fun _ _ _ => .inr rfl) (fun _ _ => rfl) h
  obtain rfl : h' = t.halt := hfollows.halt rfl
  obtain rfl : e' = t.err := hfollows.err rfl
  obtain rfl : b' = t.st := hfollows.st rfl
  obtain rfl : c' = t.cfg := hfollows.cfg rfl
  obtain rfl : l' = l := hfollows.scheduleKept
  exact hexec

theorem cycle_withSchedule (l : List Event) (h : cycle s = .next t) :
    cycle { s with schedule := l } = .next { t with schedule := l } := by
  obtain ⟨hidle, rfl⟩ | ⟨hrun, hfetch, rfl⟩ | ⟨op, e, hrun, hfetch, hdecode, rfl⟩ |
    ⟨op, i, hrun, hfetch, hdecode, hexec⟩ := cycle_cases h
  · exact cycle_idle (s := { t with schedule := l }) hidle
  · exact cycle_noFetch (s := { s with schedule := l }) hrun hfetch
  · exact cycle_unknown (s := { s with schedule := l }) hrun hfetch hdecode
  · exact (cycle_exec (s := { s with schedule := l }) hrun hfetch hdecode).trans
      (exec_withSchedule l hexec)

/-- No event reads the schedule. -/
theorem applyEvent_withSchedule {e : Event} (l : List Event) (h : applyEvent e s = .next t) :
    applyEvent e { s with schedule := l } = .next { t with schedule := l } := by
  cases e with
  | step => exact cycle_withSchedule l h
  | reset | tick =>
    cases h
    rfl
  | loadProgram bytes =>
    cases h
    simp only [applyEvent, State.loadProgram]
    split_ifs <;> rfl
  | setKeys k =>
    cases h
    simp only [applyEvent, State.setKeys, State.keyWake]
    split_ifs
    · split <;> rfl
    · rfl

/-- No event writes the schedule, so that an empty one stays empty. -/
theorem applyEvent_emptySchedule {e : Event} (hsched : s.schedule = []) (h : applyEvent e s = .next t) :
    ({ t with schedule := [] } : State) = t := by
  obtain ⟨-, -, hkept, -⟩ := eventsKeepTheModelsFields e s t h
  rw [← hsched, ← hkept]

theorem run_succ {n : Nat} (h : step s = .next t) :
    Host.Core.run Sys2Proof.core (n + 1) s = Host.Core.run Sys2Proof.core n t := by
  have hcore : Sys2Proof.core.step s = .next t := h
  simp only [Host.Core.run, hcore]

/-- Settles O53: each step takes the event listed first, which neither reads nor writes the others. -/
theorem scheduleRunsTheFoldOfEvents : Obligations.ScheduleRunsTheFoldOfEvents := by
  intro es
  induction es with
  | nil => exact fun _ => rfl
  | cons e rest ih =>
    intro s
    obtain ⟨t, ht⟩ := applyEvent_total e { s with schedule := [] }
    have hstep : step { s with schedule := e :: rest } = .next { t with schedule := rest } :=
      (step_event rfl).trans (applyEvent_withSchedule (s := { s with schedule := [] }) rest ht)
    have hrest := ih t
    rw [applyEvent_emptySchedule rfl ht] at hrest
    exact ((run_succ hstep).trans hrest).trans (runEvents_cons ht rest).symm

/-- The host's plan decides what is listed after an unlisted Step. -/
theorem placed_eq {es : List Event} (hquiet : s.host = .quiet → es = [])
    (hticking : s.host = .ticking → es = List.replicate (Config.ticksAfter s.turns) .tick)
    (hfree : s.host = .free → es = Config.hostEvents s.turns) : s.placed = es := by
  cases hhost : s.host with
  | quiet => rw [placed_quiet hhost, hquiet hhost]
  | ticking => rw [placed_ticking hhost, hticking hhost]
  | free => rw [placed_free hhost, hfree hhost]

/-- Settles O54: the unlisted Step is a cycle with the plan's events listed, which then run as their
fold. -/
theorem unlistedStepsAreFollowedByTheHostsEvents :
    Obligations.UnlistedStepsAreFollowedByTheHostsEvents := by
  intro s es hsched hquiet hticking hfree
  obtain ⟨t, ht⟩ := applyEvent_total .step { s with turns := s.turns + 1 }
  have hstep : step s = .next { t with schedule := es } := by
    rw [step_idleSchedule hsched, State.openTurn, placed_eq hquiet hticking hfree]
    exact applyEvent_withSchedule es ht
  have hrest := scheduleRunsTheFoldOfEvents es t
  rw [applyEvent_emptySchedule (s := { s with turns := s.turns + 1 }) hsched ht] at hrest
  rw [Nat.add_comm]
  exact ((run_succ hstep).trans hrest).trans (runEvents_cons ht es).symm

end Sys2Proof.Machine
